-- ==== Sys2Proof/Word.lean ====
section
/-! DEFINITION. Word: the two widths of the machine (00_scope.md rule R5): 8-bit data, 16-bit pairs and addresses. -/

namespace Sys2Proof

/-- `u8`: the content of an 8-bit register or of one memory location (R5, R21). -/
abbrev Byte := BitVec 8

/-- `u16`: the content of PC, SP or a register pair (R5, R22, R29). -/
abbrev Word := BitVec 16

/-- A bus address, 16 bits wide (R5, R60). -/
abbrev Addr := BitVec 16

end Sys2Proof
end

