-- ==== Sys2Proof/Config.lean ====
section
/-! DEFINITION. Config: the six named parameters of 00_scope.md rule R6, and the free value of an external bus. -/

namespace Sys2Proof

/-- `BYTE_ORDER` (R6, R68; D2): which byte of a 16-bit quantity stands at the lower address. -/
inductive ByteOrder where
  | le   -- the low byte at the lower address, the default
  | be   -- the high byte at the lower address
deriving DecidableEq, Repr

/-- `ACC_ROTATE_Z` (R6; D5): how RLCA, RRCA, RLA and RRA write F.Z. -/
inductive AccRotateZ where
  | fromResult   -- Z from the rotated result, the default
  | cleared      -- Z written 0
deriving DecidableEq, Repr

/-- The provenance tiers of 00_scope.md rule R7. -/
inductive Tier where
  | s    -- source-settled
  | sg   -- source-named
  | g    -- general knowledge
deriving DecidableEq, Repr

/-- `ADMIT` (R6, R107; D19): which tiers of instructions the model gives a meaning. -/
inductive Admit where
  | full            -- every instruction, the default
  | sourceNamed     -- tiers S and SG
  | sourceSettled   -- tier S only
deriving DecidableEq, Repr

/-- `Bus` (R6, R61; D13): what answers reads and takes writes. -/
inductive BusKind where
  | flat       -- FlatBus: 64 KiB of RAM
  | external   -- any other bus: every read may answer any byte, every write is accepted
deriving DecidableEq, Repr

/-- The parameters of R6, constant over a run.
DESIGN CHOICE (log entry 1, safe): they are held in `State` (field `cfg`), because the types of `exec` and `step` are
fixed; no step changes them. -/
structure Config where
  byteOrder : ByteOrder
  accRotateZ : AccRotateZ
  tPerM : Nat
  bus : BusKind
  admission : Admit
  hostResumesHalt : Bool
deriving DecidableEq, Repr

/-- The defaults of R6. -/
def Config.default : Config where
  byteOrder := .le
  accRotateZ := .fromResult
  tPerM := 4
  bus := .flat
  admission := .full
  hostResumesHalt := false

/-- FREE VALUE (log entry 3, safe): what an `external` bus in a given state answers to a read, and its state after. R61:
a bus is any total `read : B -> u16 -> u8 x B`; U3 of 93_implementation_defined.md: `any value`. The bus's state is a
number, its meaning the bus's own. -/
opaque Config.busRead : Nat → Addr → Byte × Nat

/-- FREE VALUE (log entry 3, safe): the state of an `external` bus after a write (R61: `write : B -> u16 -> u8 -> B`). -/
opaque Config.busWrite : Nat → Addr → Byte → Nat

end Sys2Proof
end

