-- ==== Sys2Proof/Syntax.lean ====
section
/-! DEFINITION. Syntax: the operand index tables of 30_encoding.md rule R93 and one constructor for every row of
spec/opcode_table.json (R98 to R102). Operands stand assembled: a 16-bit operand is one `Word`. -/

namespace Sys2Proof

/-- Table `R8` of R93 without its index 6, which selects the memory byte at HL and has forms of its own. -/
inductive R8 where
  | b | c | d | e | h | l | a
deriving DecidableEq, Repr

/-- Table `R16` of R93. -/
inductive R16 where
  | bc | de | hl | sp
deriving DecidableEq, Repr

/-- Table `R16S` of R93, the PUSH and POP table. -/
inductive R16S where
  | bc | de | hl | af
deriving DecidableEq, Repr

/-- Table `CC` of R93: NZ, Z, NC, C. -/
inductive CC where
  | nz | z | nc | c
deriving DecidableEq, Repr

/-- Table `RST` of R93: the field `y` of an RST; the target is `y * 8`. -/
abbrev RST := Fin 8

/-- One constructor per row of spec/opcode_table.json, in the table's order. Each docstring gives the row's
mnemonic and the rule that holds its meaning. -/
inductive Instr where
  /-- NOP (R350). -/
  | nop
  /-- LD (a16),SP (R303). -/
  | ldAtA16SP (addr : Addr)
  /-- STOP (R352); the pad byte is kept as fetched and never used (R105). -/
  | stop (pad : Byte)
  /-- JR e8 (R324). -/
  | jrE8 (e : Byte)
  /-- JR cc,e8 (R325). -/
  | jrCcE8 (cc : CC) (e : Byte)
  /-- LD rr,d16 (R302). -/
  | ldRrD16 (rr : R16) (d : Word)
  /-- ADD HL,rr (R200). -/
  | addHLRr (rr : R16)
  /-- LD (BC),A (R267). -/
  | ldAtBCA
  /-- LD (DE),A (R268). -/
  | ldAtDEA
  /-- LD (HL+),A (R271). -/
  | ldAtHLIncA
  /-- LD (HL-),A (R272). -/
  | ldAtHLDecA
  /-- LD A,(BC) (R265). -/
  | ldAAtBC
  /-- LD A,(DE) (R266). -/
  | ldAAtDE
  /-- LD A,(HL+) (R269). -/
  | ldAAtHLInc
  /-- LD A,(HL-) (R270). -/
  | ldAAtHLDec
  /-- INC rr (R201). -/
  | incRr (rr : R16)
  /-- DEC rr (R202). -/
  | decRr (rr : R16)
  /-- INC r (R174). -/
  | incR (r : R8)
  /-- INC (HL) (R175). -/
  | incAtHL
  /-- DEC r (R176). -/
  | decR (r : R8)
  /-- DEC (HL) (R177). -/
  | decAtHL
  /-- LD r,d8 (R263). -/
  | ldRD8 (r : R8) (d : Byte)
  /-- LD (HL),d8 (R264). -/
  | ldAtHLD8 (d : Byte)
  /-- RLCA (R220). -/
  | rlca
  /-- RRCA (R221). -/
  | rrca
  /-- RLA (R222). -/
  | rla
  /-- RRA (R223). -/
  | rra
  /-- DAA (R183). -/
  | daa
  /-- CPL (R184). -/
  | cpl
  /-- SCF (R185). -/
  | scf
  /-- CCF (R186). -/
  | ccf
  /-- LD r,r' (R260). -/
  | ldRR (dst src : R8)
  /-- LD r,(HL) (R261). -/
  | ldRAtHL (dst : R8)
  /-- LD (HL),r (R262). -/
  | ldAtHLR (r : R8)
  /-- HALT (R351). -/
  | halt
  /-- ADD A,r (R150). -/
  | addAR (r : R8)
  /-- ADD A,(HL) (R151). -/
  | addAAtHL
  /-- ADC A,r (R153). -/
  | adcAR (r : R8)
  /-- ADC A,(HL) (R154). -/
  | adcAAtHL
  /-- SUB r (R156). -/
  | subR (r : R8)
  /-- SUB (HL) (R157). -/
  | subAtHL
  /-- SBC A,r (R159). -/
  | sbcAR (r : R8)
  /-- SBC A,(HL) (R160). -/
  | sbcAAtHL
  /-- AND r (R162). -/
  | andR (r : R8)
  /-- AND (HL) (R163). -/
  | andAtHL
  /-- XOR r (R165). -/
  | xorR (r : R8)
  /-- XOR (HL) (R166). -/
  | xorAtHL
  /-- OR r (R168). -/
  | orR (r : R8)
  /-- OR (HL) (R169). -/
  | orAtHL
  /-- CP r (R171). -/
  | cpR (r : R8)
  /-- CP (HL) (R172). -/
  | cpAtHL
  /-- ADD A,d8 (R152). -/
  | addAD8 (d : Byte)
  /-- ADC A,d8 (R155). -/
  | adcAD8 (d : Byte)
  /-- SUB d8 (R158). -/
  | subD8 (d : Byte)
  /-- SBC A,d8 (R161). -/
  | sbcAD8 (d : Byte)
  /-- AND d8 (R164). -/
  | andD8 (d : Byte)
  /-- XOR d8 (R167). -/
  | xorD8 (d : Byte)
  /-- OR d8 (R170). -/
  | orD8 (d : Byte)
  /-- CP d8 (R173). -/
  | cpD8 (d : Byte)
  /-- RET cc (R329). -/
  | retCc (cc : CC)
  /-- LDH (a8),A (R276). -/
  | ldhAtA8A (a : Byte)
  /-- ADD SP,e8 (R203). -/
  | addSPE8 (e : Byte)
  /-- LDH A,(a8) (R277). -/
  | ldhAAtA8 (a : Byte)
  /-- LD HL,SP+e8 (R307). -/
  | ldHLSPE8 (e : Byte)
  /-- POP rr (R305). -/
  | popRr (rr : R16S)
  /-- RET (R328). -/
  | ret
  /-- RETI (R330). -/
  | reti
  /-- JP HL (R323). -/
  | jpHL
  /-- LD SP,HL (R306). -/
  | ldSPHL
  /-- JP cc,a16 (R322). -/
  | jpCcA16 (cc : CC) (t : Addr)
  /-- LD (C),A (R278). -/
  | ldAtCA
  /-- LD (a16),A (R274). -/
  | ldAtA16A (addr : Addr)
  /-- LD A,(C) (R279). -/
  | ldAAtC
  /-- LD A,(a16) (R273). -/
  | ldAAtA16 (addr : Addr)
  /-- JP a16 (R321). -/
  | jpA16 (t : Addr)
  /-- PREFIX CB (R355); the table entry of the byte 0xCB alone: not an instruction, see WellFormed. -/
  | prefixCB
  /-- DI (R353). -/
  | di
  /-- EI (R354). -/
  | ei
  /-- CALL cc,a16 (R327). -/
  | callCcA16 (cc : CC) (t : Addr)
  /-- PUSH rr (R304). -/
  | pushRr (rr : R16S)
  /-- CALL a16 (R326). -/
  | callA16 (t : Addr)
  /-- RST t (R331). -/
  | rstT (t : RST)
  /-- INVALID 0xD3 (R356). -/
  | invalidD3
  /-- INVALID 0xDB (R356). -/
  | invalidDB
  /-- INVALID 0xDD (R356). -/
  | invalidDD
  /-- INVALID 0xE3 (R356). -/
  | invalidE3
  /-- INVALID 0xE4 (R356). -/
  | invalidE4
  /-- INVALID 0xEB (R356). -/
  | invalidEB
  /-- INVALID 0xEC (R356). -/
  | invalidEC
  /-- INVALID 0xED (R356). -/
  | invalidED
  /-- INVALID 0xF4 (R356). -/
  | invalidF4
  /-- INVALID 0xFC (R356). -/
  | invalidFC
  /-- INVALID 0xFD (R356). -/
  | invalidFD
  /-- RLC r (R224). -/
  | rlcR (r : R8)
  /-- RLC (HL) (R225). -/
  | rlcAtHL
  /-- RRC r (R226). -/
  | rrcR (r : R8)
  /-- RRC (HL) (R227). -/
  | rrcAtHL
  /-- RL r (R228). -/
  | rlR (r : R8)
  /-- RL (HL) (R229). -/
  | rlAtHL
  /-- RR r (R230). -/
  | rrR (r : R8)
  /-- RR (HL) (R231). -/
  | rrAtHL
  /-- SLA r (R232). -/
  | slaR (r : R8)
  /-- SLA (HL) (R233). -/
  | slaAtHL
  /-- SRA r (R234). -/
  | sraR (r : R8)
  /-- SRA (HL) (R235). -/
  | sraAtHL
  /-- SWAP r (R236). -/
  | swapR (r : R8)
  /-- SWAP (HL) (R237). -/
  | swapAtHL
  /-- SRL r (R238). -/
  | srlR (r : R8)
  /-- SRL (HL) (R239). -/
  | srlAtHL
  /-- BIT b,r (R240). -/
  | bitBR (b : Fin 8) (r : R8)
  /-- BIT b,(HL) (R241). -/
  | bitBAtHL (b : Fin 8)
  /-- RES b,r (R242). -/
  | resBR (b : Fin 8) (r : R8)
  /-- RES b,(HL) (R243). -/
  | resBAtHL (b : Fin 8)
  /-- SET b,r (R244). -/
  | setBR (b : Fin 8) (r : R8)
  /-- SET b,(HL) (R245). -/
  | setBAtHL (b : Fin 8)
deriving DecidableEq, Repr

end Sys2Proof
end

