-- ==== Sys2Proof/Machine/State.lean ====
section
/-! DEFINITION. State: the architectural state of 10_state.md rule R20, the bus's contents, the configuration, and the
model's own fields, all plain data; the faults and refusals; the state after reset. -/

namespace Sys2Proof.Machine

/-- The contents of FlatBus (R61): address and byte pairs, addresses strictly rising, no entry equal to what an
unlisted address reads as. -/
abbrev Memory := List Host.Cell

/-- Every register, pair view and control bit the host's accessors name (R37). -/
inductive HostReg where
  | a | b | c | d | e | h | l | f
  | af | bc | de | hl
  | pc | sp | ime
deriving DecidableEq, Repr

/-- Which of the eleven fields of R20 have been written since the core was created (R35, R432). -/
structure Written where
  a : Bool
  b : Bool
  c : Bool
  d : Bool
  e : Bool
  h : Bool
  l : Bool
  f : Bool
  pc : Bool
  sp : Bool
  ime : Bool
deriving DecidableEq, Repr

/-- Every field written: what `reset` leaves (R430). -/
def Written.all : Written := ⟨true, true, true, true, true, true, true, true, true, true, true⟩

/-- No field written: the core as created (R35). -/
def Written.none : Written := ⟨false, false, false, false, false, false, false, false, false, false, false⟩

/-- The `kind` of a `Halted` outcome (R372). -/
inductive HaltKind where
  | halt
  | stop
deriving DecidableEq, Repr

/-- The outcome a completed step returns to the host (R372). The third outcome, `InvalidOpcode`, is the fault of that
name, since it leaves no new state. -/
inductive StepReport where
  | none                                          -- no step made yet
  | retired (m t : Nat)                           -- `Retired(M, T)`
  | halted (kind : HaltKind) (m t : Nat)          -- `Halted(kind, M, T)`
deriving DecidableEq, Repr

/-- The kind of a bus access (R376). -/
inductive AccessKind where
  | read
  | write
deriving DecidableEq, Repr

/-- One bus access: its kind, its address, and the byte read or written (R70, R376). -/
structure Access where
  kind : AccessKind
  addr : Addr
  byte : Byte
deriving DecidableEq, Repr

/-- Which dispatch table had no entry (R401). -/
inductive TableKind where
  | primary
  | secondary
deriving DecidableEq, Repr

/-- The machine. The first eleven fields are the whole architectural state (R20). -/
@[ext]
structure State where
  /-- A, the accumulator (R20, R21). -/
  a : Byte
  /-- B (R20, R21). -/
  b : Byte
  /-- C (R20, R21). -/
  c : Byte
  /-- D (R20, R21). -/
  d : Byte
  /-- E (R20, R21). -/
  e : Byte
  /-- H (R20, R21). -/
  h : Byte
  /-- L (R20, R21). -/
  l : Byte
  /-- F: flags in bits 7..4, bits 3..0 always 0 (R25, R26). -/
  f : Byte
  /-- PC (R28). -/
  pc : Word
  /-- SP (R30). -/
  sp : Word
  /-- IME (R31). -/
  ime : Bool
  /-- The contents of FlatBus; not part of the core (R20, R60). -/
  mem : Memory
  /-- The parameters of R6, constant over a run (log entry 1). -/
  cfg : Config
  /-- MODEL's own: which fields have been written since creation (R35; log entry 5). -/
  written : Written
  /-- MODEL's own: the outcome the last step returned (R372; log entry 4). -/
  last : StepReport
  /-- MODEL's own: the bus accesses of the last step, oldest first (R70; log entry 4). -/
  accesses : List Access
  /-- The state of an external bus, a number whose meaning is the bus's own (R61; log entry 3). -/
  busState : Nat
deriving DecidableEq, Repr

/-- Why the machine stops. -/
inductive Fault where
  /-- `InvalidOpcode(table, byte, addr)` (R400, R401), raised by the meanings of the eleven invalid bytes (R356). Safe:
  the spec gives exactly this stop, with every register, PC included, as before the step; log entry 6. -/
  | invalidOpcode (table : TableKind) (byte : Byte) (addr : Addr)
  /-- A host `get` of a field that nothing has written since the core was created (R35), raised by `hostGet` only;
  no step raises it. Safe. -/
  | unwrittenField (r : HostReg)
deriving DecidableEq, Repr

/-- Why there is no meaning. -/
inductive Refusal where
  /-- An instruction whose meaning is not written yet; raised by no arm of `exec` now. Safe. -/
  | notModelled (mnemonic : String)
  /-- R107: `ADMIT` is below `Full` and the instruction's tier is not admitted; raised by `step`. Safe: R107 "errs
  toward unprovable". -/
  | notAdmitted (i : Instr)
  /-- R35, R432: `step` while some field has never been written; raised by `step`. Safe: the spec refuses it. -/
  | beforeReset
deriving DecidableEq, Repr

/-- What a meaning answers. -/
abbrev Result := Host.Outcome State Fault Refusal

/-- The machine right after `reset()` (R36, R430, R431), with the default configuration, nothing placed on the bus
(log entry 2) and no step made (log entry 4). -/
def State.reset : State where
  a := 0
  b := 0
  c := 0
  d := 0
  e := 0
  h := 0
  l := 0
  f := 0
  pc := 0
  sp := 0
  ime := true
  mem := []
  cfg := Config.default
  written := Written.all
  last := .none
  accesses := []
  busState := 0

end Sys2Proof.Machine
end

