-- ==== Sys2Proof/Machine/Admission.lean ====
section
/-! DEFINITION. Admission: the provenance tier of every instruction (R7, column `tier` of spec/opcode_table.json) and
which of them the parameter `ADMIT` admits (30_encoding.md rule R107). -/

namespace Sys2Proof.Machine

/-- The provenance tier of an instruction rule (R7). The eleven invalid bytes are no instructions, so `ADMIT` does
not concern them: they keep the `InvalidOpcode` outcome (R104, R107; log entry 10). -/
def tierOf : Instr → Option Tier
  | .nop => some .sg
  | .ldAtA16SP _ => some .g
  | .stop _ => some .g
  | .jrE8 _ => some .g
  | .jrCcE8 _ _ => some .g
  | .ldRrD16 _ _ => some .s
  | .addHLRr _ => some .s
  | .ldAtBCA => some .s
  | .ldAtDEA => some .s
  | .ldAtHLIncA => some .sg
  | .ldAtHLDecA => some .sg
  | .ldAAtBC => some .s
  | .ldAAtDE => some .s
  | .ldAAtHLInc => some .sg
  | .ldAAtHLDec => some .sg
  | .incRr _ => some .s
  | .decRr _ => some .s
  | .incR _ => some .s
  | .incAtHL => some .s
  | .decR _ => some .s
  | .decAtHL => some .s
  | .ldRD8 _ _ => some .s
  | .ldAtHLD8 _ => some .sg
  | .rlca => some .s
  | .rrca => some .sg
  | .rla => some .g
  | .rra => some .g
  | .daa => some .g
  | .cpl => some .g
  | .scf => some .g
  | .ccf => some .g
  | .ldRR _ _ => some .g
  | .ldRAtHL _ => some .s
  | .ldAtHLR _ => some .s
  | .halt => some .g
  | .addAR _ => some .s
  | .addAAtHL => some .s
  | .adcAR _ => some .s
  | .adcAAtHL => some .s
  | .subR _ => some .s
  | .subAtHL => some .s
  | .sbcAR _ => some .s
  | .sbcAAtHL => some .s
  | .andR _ => some .sg
  | .andAtHL => some .sg
  | .xorR _ => some .sg
  | .xorAtHL => some .sg
  | .orR _ => some .sg
  | .orAtHL => some .sg
  | .cpR _ => some .sg
  | .cpAtHL => some .sg
  | .addAD8 _ => some .s
  | .adcAD8 _ => some .s
  | .subD8 _ => some .s
  | .sbcAD8 _ => some .s
  | .andD8 _ => some .sg
  | .xorD8 _ => some .sg
  | .orD8 _ => some .sg
  | .cpD8 _ => some .sg
  | .retCc _ => some .g
  | .ldhAtA8A _ => some .g
  | .addSPE8 _ => some .g
  | .ldhAAtA8 _ => some .g
  | .ldHLSPE8 _ => some .g
  | .popRr _ => some .sg
  | .ret => some .g
  | .reti => some .g
  | .jpHL => some .g
  | .ldSPHL => some .g
  | .jpCcA16 _ _ => some .g
  | .ldAtCA => some .g
  | .ldAtA16A _ => some .g
  | .ldAAtC => some .g
  | .ldAAtA16 _ => some .g
  | .jpA16 _ => some .g
  | .prefixCB => some .s
  | .di => some .sg
  | .ei => some .sg
  | .callCcA16 _ _ => some .g
  | .pushRr _ => some .sg
  | .callA16 _ => some .g
  | .rstT _ => some .g
  | .invalidD3 => none
  | .invalidDB => none
  | .invalidDD => none
  | .invalidE3 => none
  | .invalidE4 => none
  | .invalidEB => none
  | .invalidEC => none
  | .invalidED => none
  | .invalidF4 => none
  | .invalidFC => none
  | .invalidFD => none
  | .rlcR _ => some .s
  | .rlcAtHL => some .s
  | .rrcR _ => some .sg
  | .rrcAtHL => some .sg
  | .rlR _ => some .g
  | .rlAtHL => some .g
  | .rrR _ => some .g
  | .rrAtHL => some .g
  | .slaR _ => some .g
  | .slaAtHL => some .g
  | .sraR _ => some .g
  | .sraAtHL => some .g
  | .swapR _ => some .g
  | .swapAtHL => some .g
  | .srlR _ => some .g
  | .srlAtHL => some .g
  | .bitBR _ _ => some .g
  | .bitBAtHL _ => some .g
  | .resBR _ _ => some .g
  | .resBAtHL _ => some .g
  | .setBR _ _ => some .g
  | .setBAtHL _ => some .g

/-- R107: `Full` admits every tier, `SourceNamed` S and SG, `SourceSettled` S only. -/
def admits : Admit → Option Tier → Bool
  | .full, _ => true
  | .sourceNamed, t => t != some .g
  | .sourceSettled, t => t != some .g && t != some .sg

end Sys2Proof.Machine
end

