-- ==== Sys2Proof/WellFormed.lean ====
section
/-! DEFINITION. WellFormed: which terms of `Instr` are instructions. Register indexes, conditions, bit numbers and
restart targets are types with exactly the admitted values (R93), and no operand value is reserved (R105), so one
check is left. -/

namespace Sys2Proof

/-- R355: "0xCB in opcode position is not an instruction": the bare prefix entry is no instruction. Every other table
entry, an invalid byte included (it occupies its slot, R104, R106), is one that a decoder can find in memory. -/
def Instr.wellFormed : Instr → Bool
  | .prefixCB => false
  | _ => true

end Sys2Proof
end

