-- ==== Sys2Proof/Decode.lean ====
section
/-! DEFINITION. Decode: byte order, operand assembly, the primary and the secondary table (30_encoding.md R90 to R109)
as a total decoder, and after it the encoder written from the same tables. -/

namespace Sys2Proof

/-! ### Byte-order and bit-field helpers (00_scope.md section 5.1) -/

/-- `hi(v) = v[15:8]`. -/
def hiByte (v : Word) : Byte := v.extractLsb' 8 8

/-- `lo(v) = v[7:0]`. -/
def loByte (v : Word) : Byte := v.extractLsb' 0 8

/-- `{h, l}`: concatenation, `h` the more significant byte. -/
def joinBytes (h l : Byte) : Word := h ++ l

/-- `sext_16(e)`: the signed displacement of R97. -/
def sext16 (e : Byte) : Word := e.signExtend 16

/-- Two bytes in address order make a 16-bit quantity (R66, R96, R301). -/
def assemble : ByteOrder → Byte → Byte → Word
  | .le, b0, b1 => joinBytes b1 b0
  | .be, b0, b1 => joinBytes b0 b1

/-- The byte that stands at the lower address (R67, R300: `x0`). -/
def lowerByte : ByteOrder → Word → Byte
  | .le, v => loByte v
  | .be, v => hiByte v

/-- The byte that stands at the higher address (R67, R300: `x1`). -/
def upperByte : ByteOrder → Word → Byte
  | .le, v => hiByte v
  | .be, v => loByte v

/-! ### Fields of an opcode byte (R91) -/

/-- `x`, bits 7..6. -/
def fieldX (op : Byte) : BitVec 2 := op.extractLsb' 6 2

/-- `y`, bits 5..3. -/
def fieldY (op : Byte) : BitVec 3 := op.extractLsb' 3 3

/-- `z`, bits 2..0. -/
def fieldZ (op : Byte) : BitVec 3 := op.extractLsb' 0 3

/-- `p`, bits 5..4. -/
def fieldP (op : Byte) : BitVec 2 := op.extractLsb' 4 2

/-- `q`, bit 3. -/
def fieldQ (op : Byte) : Bool := op.getLsbD 3

/-- The condition field, bits 4..3 (R93). -/
def fieldCC (op : Byte) : BitVec 2 := op.extractLsb' 3 2

/-! ### Field value tables (R93) -/

/-- The 8-bit operand table: `none` is index 6, the memory byte at HL. -/
def R8.ofField (v : BitVec 3) : Option R8 :=
  match v.toNat with
  | 0 => some .b
  | 1 => some .c
  | 2 => some .d
  | 3 => some .e
  | 4 => some .h
  | 5 => some .l
  | 6 => none
  | _ => some .a

/-- Table `R16`. -/
def R16.ofField (v : BitVec 2) : R16 :=
  match v.toNat with
  | 0 => .bc
  | 1 => .de
  | 2 => .hl
  | _ => .sp

/-- Table `R16S`. -/
def R16S.ofField (v : BitVec 2) : R16S :=
  match v.toNat with
  | 0 => .bc
  | 1 => .de
  | 2 => .hl
  | _ => .af

/-- Table `CC`. -/
def CC.ofField (v : BitVec 2) : CC :=
  match v.toNat with
  | 0 => .nz
  | 1 => .z
  | 2 => .nc
  | _ => .c

/-- Tables `BIT` and `RST`: the field `y` as a number 0 to 7. -/
def indexOfField (v : BitVec 3) : Fin 8 := v.toFin

/-! ### Lengths (R90, R106) -/

/-- The first bytes of the format `OP_D16` (R90). -/
def threeByteOpcodes : List Byte :=
  [0x01, 0x11, 0x21, 0x31, 0x08, 0xC2, 0xC3, 0xC4, 0xCA, 0xCC, 0xCD, 0xD2, 0xD4, 0xDA, 0xDC, 0xEA, 0xFA]

/-- The first bytes of the formats `OP_D8`, `OP_A8`, `OP_E8`, `OP_PAD` and `CB_OP` (R90). -/
def twoByteOpcodes : List Byte :=
  [0x06, 0x0E, 0x16, 0x1E, 0x26, 0x2E, 0x36, 0x3E, 0xC6, 0xCE, 0xD6, 0xDE, 0xE6, 0xEE, 0xF6, 0xFE,
    0xE0, 0xF0, 0x18, 0x20, 0x28, 0x30, 0x38, 0xE8, 0xF8, 0x10, 0xCB]

/-- R106: the length of an instruction from byte 0 alone. -/
def lengthOfOpcode (op : Byte) : Nat :=
  if op ∈ threeByteOpcodes then 3 else if op ∈ twoByteOpcodes then 2 else 1

/-- The length in bytes, prefix byte included (R90; column `length` of the table). -/
def Instr.length : Instr → Nat
  | .nop => 1
  | .ldAtA16SP _ => 3
  | .stop _ => 2
  | .jrE8 _ => 2
  | .jrCcE8 _ _ => 2
  | .ldRrD16 _ _ => 3
  | .addHLRr _ => 1
  | .ldAtBCA => 1
  | .ldAtDEA => 1
  | .ldAtHLIncA => 1
  | .ldAtHLDecA => 1
  | .ldAAtBC => 1
  | .ldAAtDE => 1
  | .ldAAtHLInc => 1
  | .ldAAtHLDec => 1
  | .incRr _ => 1
  | .decRr _ => 1
  | .incR _ => 1
  | .incAtHL => 1
  | .decR _ => 1
  | .decAtHL => 1
  | .ldRD8 _ _ => 2
  | .ldAtHLD8 _ => 2
  | .rlca => 1
  | .rrca => 1
  | .rla => 1
  | .rra => 1
  | .daa => 1
  | .cpl => 1
  | .scf => 1
  | .ccf => 1
  | .ldRR _ _ => 1
  | .ldRAtHL _ => 1
  | .ldAtHLR _ => 1
  | .halt => 1
  | .addAR _ => 1
  | .addAAtHL => 1
  | .adcAR _ => 1
  | .adcAAtHL => 1
  | .subR _ => 1
  | .subAtHL => 1
  | .sbcAR _ => 1
  | .sbcAAtHL => 1
  | .andR _ => 1
  | .andAtHL => 1
  | .xorR _ => 1
  | .xorAtHL => 1
  | .orR _ => 1
  | .orAtHL => 1
  | .cpR _ => 1
  | .cpAtHL => 1
  | .addAD8 _ => 2
  | .adcAD8 _ => 2
  | .subD8 _ => 2
  | .sbcAD8 _ => 2
  | .andD8 _ => 2
  | .xorD8 _ => 2
  | .orD8 _ => 2
  | .cpD8 _ => 2
  | .retCc _ => 1
  | .ldhAtA8A _ => 2
  | .addSPE8 _ => 2
  | .ldhAAtA8 _ => 2
  | .ldHLSPE8 _ => 2
  | .popRr _ => 1
  | .ret => 1
  | .reti => 1
  | .jpHL => 1
  | .ldSPHL => 1
  | .jpCcA16 _ _ => 3
  | .ldAtCA => 1
  | .ldAtA16A _ => 3
  | .ldAAtC => 1
  | .ldAAtA16 _ => 3
  | .jpA16 _ => 3
  | .prefixCB => 1
  | .di => 1
  | .ei => 1
  | .callCcA16 _ _ => 3
  | .pushRr _ => 1
  | .callA16 _ => 3
  | .rstT _ => 1
  | .invalidD3 => 1
  | .invalidDB => 1
  | .invalidDD => 1
  | .invalidE3 => 1
  | .invalidE4 => 1
  | .invalidEB => 1
  | .invalidEC => 1
  | .invalidED => 1
  | .invalidF4 => 1
  | .invalidFC => 1
  | .invalidFD => 1
  | .rlcR _ => 2
  | .rlcAtHL => 2
  | .rrcR _ => 2
  | .rrcAtHL => 2
  | .rlR _ => 2
  | .rlAtHL => 2
  | .rrR _ => 2
  | .rrAtHL => 2
  | .slaR _ => 2
  | .slaAtHL => 2
  | .sraR _ => 2
  | .sraAtHL => 2
  | .swapR _ => 2
  | .swapAtHL => 2
  | .srlR _ => 2
  | .srlAtHL => 2
  | .bitBR _ _ => 2
  | .bitBAtHL _ => 2
  | .resBR _ _ => 2
  | .resBAtHL _ => 2
  | .setBR _ _ => 2
  | .setBAtHL _ => 2

/-! ### The decoder -/

/-- R102: the secondary (CB) table, total on all 256 bytes. -/
def decodeSecondary (op : Byte) : Instr :=
  match (fieldX op).toNat with
  | 0 =>
    match (fieldY op).toNat, R8.ofField (fieldZ op) with
    | 0, some r => .rlcR r
    | 0, none => .rlcAtHL
    | 1, some r => .rrcR r
    | 1, none => .rrcAtHL
    | 2, some r => .rlR r
    | 2, none => .rlAtHL
    | 3, some r => .rrR r
    | 3, none => .rrAtHL
    | 4, some r => .slaR r
    | 4, none => .slaAtHL
    | 5, some r => .sraR r
    | 5, none => .sraAtHL
    | 6, some r => .swapR r
    | 6, none => .swapAtHL
    | _, some r => .srlR r
    | _, none => .srlAtHL
  | 1 =>
    match R8.ofField (fieldZ op) with
    | some r => .bitBR (indexOfField (fieldY op)) r
    | none => .bitBAtHL (indexOfField (fieldY op))
  | 2 =>
    match R8.ofField (fieldZ op) with
    | some r => .resBR (indexOfField (fieldY op)) r
    | none => .resBAtHL (indexOfField (fieldY op))
  | _ =>
    match R8.ofField (fieldZ op) with
    | some r => .setBR (indexOfField (fieldY op)) r
    | none => .setBAtHL (indexOfField (fieldY op))

/-- R98: quadrant 0 of the primary table. `x` is the first operand byte, `d` the 16-bit operand. -/
def decodeQuadrant0 (op x : Byte) (d : Word) : Instr :=
  match (fieldZ op).toNat with
  | 0 =>
    match (fieldY op).toNat with
    | 0 => .nop
    | 1 => .ldAtA16SP d
    | 2 => .stop x
    | 3 => .jrE8 x
    | _ => .jrCcE8 (CC.ofField (fieldCC op)) x
  | 1 => if fieldQ op then .addHLRr (R16.ofField (fieldP op)) else .ldRrD16 (R16.ofField (fieldP op)) d
  | 2 =>
    match (fieldY op).toNat with
    | 0 => .ldAtBCA
    | 1 => .ldAAtBC
    | 2 => .ldAtDEA
    | 3 => .ldAAtDE
    | 4 => .ldAtHLIncA
    | 5 => .ldAAtHLInc
    | 6 => .ldAtHLDecA
    | _ => .ldAAtHLDec
  | 3 => if fieldQ op then .decRr (R16.ofField (fieldP op)) else .incRr (R16.ofField (fieldP op))
  | 4 =>
    match R8.ofField (fieldY op) with
    | some r => .incR r
    | none => .incAtHL
  | 5 =>
    match R8.ofField (fieldY op) with
    | some r => .decR r
    | none => .decAtHL
  | 6 =>
    match R8.ofField (fieldY op) with
    | some r => .ldRD8 r x
    | none => .ldAtHLD8 x
  | _ =>
    match (fieldY op).toNat with
    | 0 => .rlca
    | 1 => .rrca
    | 2 => .rla
    | 3 => .rra
    | 4 => .daa
    | 5 => .cpl
    | 6 => .scf
    | _ => .ccf

/-- R99: quadrant 1, `y` the destination and `z` the source. -/
def decodeQuadrant1 (op : Byte) : Instr :=
  match R8.ofField (fieldY op), R8.ofField (fieldZ op) with
  | some dst, some src => .ldRR dst src
  | some dst, none => .ldRAtHL dst
  | none, some src => .ldAtHLR src
  | none, none => .halt

/-- R100: quadrant 2, `y` the ALU operation and `z` the source operand. -/
def decodeQuadrant2 (op : Byte) : Instr :=
  match (fieldY op).toNat, R8.ofField (fieldZ op) with
  | 0, some r => .addAR r
  | 0, none => .addAAtHL
  | 1, some r => .adcAR r
  | 1, none => .adcAAtHL
  | 2, some r => .subR r
  | 2, none => .subAtHL
  | 3, some r => .sbcAR r
  | 3, none => .sbcAAtHL
  | 4, some r => .andR r
  | 4, none => .andAtHL
  | 5, some r => .xorR r
  | 5, none => .xorAtHL
  | 6, some r => .orR r
  | 6, none => .orAtHL
  | _, some r => .cpR r
  | _, none => .cpAtHL

/-- R101, R104: quadrant 3. `x` is the first operand byte (after 0xCB the secondary opcode), `d` the 16-bit operand. -/
def decodeQuadrant3 (op x : Byte) (d : Word) : Instr :=
  match (fieldZ op).toNat with
  | 0 =>
    match (fieldY op).toNat with
    | 4 => .ldhAtA8A x
    | 5 => .addSPE8 x
    | 6 => .ldhAAtA8 x
    | 7 => .ldHLSPE8 x
    | _ => .retCc (CC.ofField (fieldCC op))
  | 1 =>
    match (fieldY op).toNat with
    | 1 => .ret
    | 3 => .reti
    | 5 => .jpHL
    | 7 => .ldSPHL
    | _ => .popRr (R16S.ofField (fieldP op))
  | 2 =>
    match (fieldY op).toNat with
    | 4 => .ldAtCA
    | 5 => .ldAtA16A d
    | 6 => .ldAAtC
    | 7 => .ldAAtA16 d
    | _ => .jpCcA16 (CC.ofField (fieldCC op)) d
  | 3 =>
    match (fieldY op).toNat with
    | 0 => .jpA16 d
    | 1 => decodeSecondary x
    | 2 => .invalidD3
    | 3 => .invalidDB
    | 4 => .invalidE3
    | 5 => .invalidEB
    | 6 => .di
    | _ => .ei
  | 4 =>
    match (fieldY op).toNat with
    | 4 => .invalidE4
    | 5 => .invalidEC
    | 6 => .invalidF4
    | 7 => .invalidFC
    | _ => .callCcA16 (CC.ofField (fieldCC op)) d
  | 5 =>
    match (fieldY op).toNat with
    | 1 => .callA16 d
    | 3 => .invalidDD
    | 5 => .invalidED
    | 7 => .invalidFD
    | _ => .pushRr (R16S.ofField (fieldP op))
  | 6 =>
    match (fieldY op).toNat with
    | 0 => .addAD8 x
    | 1 => .adcAD8 x
    | 2 => .subD8 x
    | 3 => .sbcAD8 x
    | 4 => .andD8 x
    | 5 => .xorD8 x
    | 6 => .orD8 x
    | _ => .cpD8 x
  | _ => .rstT (indexOfField (fieldY op))

/-- R106: decoding is total: the table entry of byte 0 with the operand bytes `x` and `y` that follow it. A byte that
the format does not have (R90) is not looked at. -/
def decodeInstr (bo : ByteOrder) (op x y : Byte) : Instr :=
  match (fieldX op).toNat with
  | 0 => decodeQuadrant0 op x (assemble bo x y)
  | 1 => decodeQuadrant1 op
  | 2 => decodeQuadrant2 op
  | _ => decodeQuadrant3 op x (assemble bo x y)

/-- Why a list of bytes holds no whole instruction. On the machine this does not arise: the bus answers every read. -/
inductive DecodeError where
  | noBytes
  | truncated (op : Byte)
deriving DecidableEq, Repr

/-- The decoder on a list of bytes in address order: the instruction and the bytes after it, or why there is none. -/
def decode (bo : ByteOrder) : List Byte → Except DecodeError (Instr × List Byte)
  | [] => .error .noBytes
  | op :: rest =>
    match lengthOfOpcode op, rest with
    | 1, rest => .ok (decodeInstr bo op 0 0, rest)
    | 2, x :: rest => .ok (decodeInstr bo op x 0, rest)
    | 3, x :: y :: rest => .ok (decodeInstr bo op x y, rest)
    | _, _ => .error (.truncated op)

/-- The bytes of a word of spec/opcode_table.json in address order. The table numbers `W = byte0 * 256 + byte1`
(R109), so byte 0 is bits 15..8, byte 1 bits 7..0, and a third byte (never in the table) bits 23..16; a lone byte of
at most 8 bits is byte 0 (log entry 8). -/
def tableBytes (nbits w : Nat) : List Byte :=
  if nbits ≤ 8 ∧ w < 256 then [BitVec.ofNat 8 w, 0, 0]
  else [BitVec.ofNat 8 (w / 256), BitVec.ofNat 8 w, BitVec.ofNat 8 (w / 65536)]

/-- The instruction the decoder reads from a word of the opcode table, the bits above it 0. -/
def decodeTableWord (nbits w : Nat) : Option Instr :=
  match decode .le (tableBytes nbits w) with
  | .ok (i, _) => some i
  | .error _ => none

/-! ### The encoder -/

/-- R93: the index of an 8-bit register. -/
def R8.index : R8 → BitVec 3
  | .b => 0
  | .c => 1
  | .d => 2
  | .e => 3
  | .h => 4
  | .l => 5
  | .a => 7

/-- R93: the index of a 16-bit register. -/
def R16.index : R16 → BitVec 2
  | .bc => 0
  | .de => 1
  | .hl => 2
  | .sp => 3

/-- R93: the index of a PUSH or POP pair. -/
def R16S.index : R16S → BitVec 2
  | .bc => 0
  | .de => 1
  | .hl => 2
  | .af => 3

/-- R93: the index of a condition. -/
def CC.index : CC → BitVec 2
  | .nz => 0
  | .z => 1
  | .nc => 2
  | .c => 3

/-- An opcode byte from its octal digits `x`, `y`, `z` (R91). -/
def octal (x : BitVec 2) (y z : BitVec 3) : Byte := x ++ y ++ z

/-- An opcode byte with a pair index: `xx pp q zzz` (R91). -/
def pairOp (x p : BitVec 2) (q : BitVec 1) (z : BitVec 3) : Byte := x ++ p ++ q ++ z

/-- An opcode byte with a condition: `xx k cc zzz`, `k` the bit above the condition (R98, R101). -/
def condOp (x : BitVec 2) (k : BitVec 1) (cc : CC) (z : BitVec 3) : Byte := x ++ k ++ cc.index ++ z

/-- Byte 0 with a 16-bit operand (format `OP_D16`). -/
def withWord (bo : ByteOrder) (op : Byte) (d : Word) : List Byte := [op, lowerByte bo d, upperByte bo d]

/-- A secondary opcode behind the prefix (format `CB_OP`, R92). -/
def withPrefix (op : Byte) : List Byte := [0xCB, op]

/-- The bytes of an instruction in address order (R98 to R104). -/
def encode (bo : ByteOrder) : Instr → List Byte
  | .nop => [0x00]
  | .ldAtA16SP addr => withWord bo 0x08 addr
  | .stop pad => [0x10, pad]
  | .jrE8 e => [0x18, e]
  | .jrCcE8 cc e => [condOp 0 1 cc 0, e]
  | .ldRrD16 rr d => withWord bo (pairOp 0 rr.index 0 1) d
  | .addHLRr rr => [pairOp 0 rr.index 1 1]
  | .ldAtBCA => [0x02]
  | .ldAtDEA => [0x12]
  | .ldAtHLIncA => [0x22]
  | .ldAtHLDecA => [0x32]
  | .ldAAtBC => [0x0A]
  | .ldAAtDE => [0x1A]
  | .ldAAtHLInc => [0x2A]
  | .ldAAtHLDec => [0x3A]
  | .incRr rr => [pairOp 0 rr.index 0 3]
  | .decRr rr => [pairOp 0 rr.index 1 3]
  | .incR r => [octal 0 r.index 4]
  | .incAtHL => [0x34]
  | .decR r => [octal 0 r.index 5]
  | .decAtHL => [0x35]
  | .ldRD8 r d => [octal 0 r.index 6, d]
  | .ldAtHLD8 d => [0x36, d]
  | .rlca => [0x07]
  | .rrca => [0x0F]
  | .rla => [0x17]
  | .rra => [0x1F]
  | .daa => [0x27]
  | .cpl => [0x2F]
  | .scf => [0x37]
  | .ccf => [0x3F]
  | .ldRR dst src => [octal 1 dst.index src.index]
  | .ldRAtHL dst => [octal 1 dst.index 6]
  | .ldAtHLR r => [octal 1 6 r.index]
  | .halt => [0x76]
  | .addAR r => [octal 2 0 r.index]
  | .addAAtHL => [0x86]
  | .adcAR r => [octal 2 1 r.index]
  | .adcAAtHL => [0x8E]
  | .subR r => [octal 2 2 r.index]
  | .subAtHL => [0x96]
  | .sbcAR r => [octal 2 3 r.index]
  | .sbcAAtHL => [0x9E]
  | .andR r => [octal 2 4 r.index]
  | .andAtHL => [0xA6]
  | .xorR r => [octal 2 5 r.index]
  | .xorAtHL => [0xAE]
  | .orR r => [octal 2 6 r.index]
  | .orAtHL => [0xB6]
  | .cpR r => [octal 2 7 r.index]
  | .cpAtHL => [0xBE]
  | .addAD8 d => [0xC6, d]
  | .adcAD8 d => [0xCE, d]
  | .subD8 d => [0xD6, d]
  | .sbcAD8 d => [0xDE, d]
  | .andD8 d => [0xE6, d]
  | .xorD8 d => [0xEE, d]
  | .orD8 d => [0xF6, d]
  | .cpD8 d => [0xFE, d]
  | .retCc cc => [condOp 3 0 cc 0]
  | .ldhAtA8A a => [0xE0, a]
  | .addSPE8 e => [0xE8, e]
  | .ldhAAtA8 a => [0xF0, a]
  | .ldHLSPE8 e => [0xF8, e]
  | .popRr rr => [pairOp 3 rr.index 0 1]
  | .ret => [0xC9]
  | .reti => [0xD9]
  | .jpHL => [0xE9]
  | .ldSPHL => [0xF9]
  | .jpCcA16 cc t => withWord bo (condOp 3 0 cc 2) t
  | .ldAtCA => [0xE2]
  | .ldAtA16A addr => withWord bo 0xEA addr
  | .ldAAtC => [0xF2]
  | .ldAAtA16 addr => withWord bo 0xFA addr
  | .jpA16 t => withWord bo 0xC3 t
  | .prefixCB => [0xCB]
  | .di => [0xF3]
  | .ei => [0xFB]
  | .callCcA16 cc t => withWord bo (condOp 3 0 cc 4) t
  | .pushRr rr => [pairOp 3 rr.index 0 5]
  | .callA16 t => withWord bo 0xCD t
  | .rstT t => [octal 3 (BitVec.ofFin t) 7]
  | .invalidD3 => [0xD3]
  | .invalidDB => [0xDB]
  | .invalidDD => [0xDD]
  | .invalidE3 => [0xE3]
  | .invalidE4 => [0xE4]
  | .invalidEB => [0xEB]
  | .invalidEC => [0xEC]
  | .invalidED => [0xED]
  | .invalidF4 => [0xF4]
  | .invalidFC => [0xFC]
  | .invalidFD => [0xFD]
  | .rlcR r => withPrefix (octal 0 0 r.index)
  | .rlcAtHL => withPrefix 0x06
  | .rrcR r => withPrefix (octal 0 1 r.index)
  | .rrcAtHL => withPrefix 0x0E
  | .rlR r => withPrefix (octal 0 2 r.index)
  | .rlAtHL => withPrefix 0x16
  | .rrR r => withPrefix (octal 0 3 r.index)
  | .rrAtHL => withPrefix 0x1E
  | .slaR r => withPrefix (octal 0 4 r.index)
  | .slaAtHL => withPrefix 0x26
  | .sraR r => withPrefix (octal 0 5 r.index)
  | .sraAtHL => withPrefix 0x2E
  | .swapR r => withPrefix (octal 0 6 r.index)
  | .swapAtHL => withPrefix 0x36
  | .srlR r => withPrefix (octal 0 7 r.index)
  | .srlAtHL => withPrefix 0x3E
  | .bitBR b r => withPrefix (octal 1 (BitVec.ofFin b) r.index)
  | .bitBAtHL b => withPrefix (octal 1 (BitVec.ofFin b) 6)
  | .resBR b r => withPrefix (octal 2 (BitVec.ofFin b) r.index)
  | .resBAtHL b => withPrefix (octal 2 (BitVec.ofFin b) 6)
  | .setBR b r => withPrefix (octal 3 (BitVec.ofFin b) r.index)
  | .setBAtHL b => withPrefix (octal 3 (BitVec.ofFin b) 6)

end Sys2Proof
end

