-- ==== Sys2Proof/Machine/Flags.lean ====
section
/-! DEFINITION. Flags: the Flag Evaluator and the ALU primitives of 40_flag_evaluator.md (R120 to R138) as pure
functions, and the one way an instruction writes F. Every meaning takes its flag values from here (R129). -/

namespace Sys2Proof.Machine

/-! ### F as a register (R25, R26, R120) -/

/-- F.Z, bit 7. -/
def State.flagZ (s : State) : Bool := s.f.getLsbD 7

/-- F.N, bit 6. -/
def State.flagN (s : State) : Bool := s.f.getLsbD 6

/-- F.H, bit 5. -/
def State.flagH (s : State) : Bool := s.f.getLsbD 5

/-- F.C, bit 4. -/
def State.flagC (s : State) : Bool := s.f.getLsbD 4

/-- R25: `F = F.Z*128 + F.N*64 + F.H*32 + F.C*16`. -/
def packFlags (z n h c : Bool) : Byte :=
  BitVec.ofNat 8 (z.toNat * 128 + n.toNat * 64 + h.toNat * 32 + c.toNat * 16)

/-- R26: every write to F stores `v & 0xF0`. -/
def State.setF (s : State) (v : Byte) : State := { s with f := v &&& 0xF0 }

/-- R120: `flags <- (z, n, h, c)`; `none` is the dash that leaves a flag as it was. -/
def State.writeFlags (s : State) (z n h c : Option Bool) : State :=
  s.setF (packFlags (z.getD s.flagZ) (n.getD s.flagN) (h.getD s.flagH) (c.getD s.flagC))

/-! ### 8-bit addition and subtraction -/

/-- The result of an 8-bit ALU function with all four flags (R130, R131, R136). -/
structure Alu8 where
  res : Byte
  z : Bool
  n : Bool
  h : Bool
  c : Bool
deriving DecidableEq, Repr

/-- `Add8` (R130, R121 to R123, R125): half-carry and carry from the sums before truncation. -/
def add8 (a b : Byte) (cin : Bool) : Alu8 :=
  let sum := a.toNat + b.toNat + cin.toNat
  let res := BitVec.ofNat 8 sum
  { res := res
    z := decide (res = 0)
    n := false
    h := decide (a.toNat % 16 + b.toNat % 16 + cin.toNat > 0xF)
    c := decide (sum > 0xFF) }

/-- `Sub8` (R131, R124, R126): the borrow rules, the borrow-in included (D6). -/
def sub8 (a b : Byte) (cin : Bool) : Alu8 :=
  let res := a - b - BitVec.ofNat 8 cin.toNat
  { res := res
    z := decide (res = 0)
    n := true
    h := decide (a.toNat % 16 < b.toNat % 16 + cin.toNat)
    c := decide (a.toNat < b.toNat + cin.toNat) }

/-- The result of `Inc8` and `Dec8`: no carry bit (R132). -/
structure Step8 where
  res : Byte
  z : Bool
  n : Bool
  h : Bool
deriving DecidableEq, Repr

/-- `Inc8` (R132). -/
def inc8 (a : Byte) : Step8 :=
  { res := a + 1
    z := decide (a + 1 = 0)
    n := false
    h := decide (a.toNat % 16 = 0xF) }

/-- `Dec8` (R132). -/
def dec8 (a : Byte) : Step8 :=
  { res := a - 1
    z := decide (a - 1 = 0)
    n := true
    h := decide (a.toNat % 16 = 0) }

/-! ### 16-bit arithmetic -/

/-- The result of `Add16`: no zero bit (R133). -/
structure Alu16 where
  res : Word
  n : Bool
  h : Bool
  c : Bool
deriving DecidableEq, Repr

/-- `Add16` (R133, R127): half-carry out of bit 11, carry out of bit 15. -/
def add16 (a b : Word) : Alu16 :=
  let sum := a.toNat + b.toNat
  { res := BitVec.ofNat 16 sum
    n := false
    h := decide (a.toNat % 4096 + b.toNat % 4096 > 0x0FFF)
    c := decide (sum > 0xFFFF) }

/-- `Inc16` (R134): no flags. -/
def inc16 (a : Word) : Word := a + 1

/-- `Dec16` (R134): no flags. -/
def dec16 (a : Word) : Word := a - 1

/-- The result of `AddSp` with all four flags (R137). -/
structure AluSp where
  res : Word
  z : Bool
  n : Bool
  h : Bool
  c : Bool
deriving DecidableEq, Repr

/-- `AddSp` (R137): the result uses the signed displacement, the flags the unsigned byte and the low byte of SP. -/
def addSp (sp : Word) (e : Byte) : AluSp :=
  { res := sp + sext16 e
    z := false
    n := false
    h := decide (sp.toNat % 16 + e.toNat % 16 > 0x0F)
    c := decide (sp.toNat % 256 + e.toNat > 0xFF) }

/-! ### Rotates, shifts, logic -/

/-- The result of a rotate or shift and the bit shifted out (R135). -/
structure Shift8 where
  res : Byte
  c : Bool
deriving DecidableEq, Repr

/-- A carry flag as a byte with that bit 0. -/
def bitByte (c : Bool) : Byte := BitVec.ofNat 8 c.toNat

/-- `Rlc8` (R135). -/
def rlc8 (a : Byte) : Shift8 := ⟨a <<< 1 ||| bitByte (a.getLsbD 7), a.getLsbD 7⟩

/-- `Rrc8` (R135). -/
def rrc8 (a : Byte) : Shift8 := ⟨a >>> 1 ||| bitByte (a.getLsbD 0) <<< 7, a.getLsbD 0⟩

/-- `Rl8` (R135): through the carry. -/
def rl8 (a : Byte) (cin : Bool) : Shift8 := ⟨a <<< 1 ||| bitByte cin, a.getLsbD 7⟩

/-- `Rr8` (R135): through the carry. -/
def rr8 (a : Byte) (cin : Bool) : Shift8 := ⟨a >>> 1 ||| bitByte cin <<< 7, a.getLsbD 0⟩

/-- `Sla8` (R135). -/
def sla8 (a : Byte) : Shift8 := ⟨a <<< 1, a.getLsbD 7⟩

/-- `Sra8` (R135): bit 7 kept. -/
def sra8 (a : Byte) : Shift8 := ⟨a >>> 1 ||| (a &&& 0x80), a.getLsbD 0⟩

/-- `Srl8` (R135). -/
def srl8 (a : Byte) : Shift8 := ⟨a >>> 1, a.getLsbD 0⟩

/-- `Swap8` (R135): the nibbles exchanged, no bit shifted out. -/
def swap8 (a : Byte) : Shift8 := ⟨(a &&& 0x0F) <<< 4 ||| a >>> 4, false⟩

/-- `And8` (R136). -/
def and8 (a b : Byte) : Alu8 := ⟨a &&& b, decide (a &&& b = 0), false, true, false⟩

/-- `Xor8` (R136). -/
def xor8 (a b : Byte) : Alu8 := ⟨a ^^^ b, decide (a ^^^ b = 0), false, false, false⟩

/-- `Or8` (R136). -/
def or8 (a b : Byte) : Alu8 := ⟨a ||| b, decide (a ||| b = 0), false, false, false⟩

/-- The byte with bit `b` alone set: `1 << b` (R242, R244). -/
def bitMask (b : Fin 8) : Byte := 1 <<< b.val

/-! ### Decimal adjust -/

/-- The result of `Daa`; F.N is not written and F.H is written 0 (R138). -/
structure DaaOut where
  res : Byte
  z : Bool
  c : Bool
deriving DecidableEq, Repr

/-- `Daa` (R138): both tests of the addition branch look at the original `a`. -/
def daa (a : Byte) (n h c : Bool) : DaaOut :=
  if n then
    let res := a - (if h then 0x06 else 0) - (if c then 0x60 else 0)
    { res := res, z := decide (res = 0), c := c }
  else
    let low : Bool := h || decide (a.toNat % 16 > 0x09)
    let high : Bool := c || decide (a.toNat > 0x99)
    let res := a + (if low then 0x06 else 0) + (if high then 0x60 else 0)
    { res := res, z := decide (res = 0), c := high }

end Sys2Proof.Machine
end

