-- ==== Sys2Proof/Machine/Operands.lean ====
section
/-! DEFINITION. Operands: the register tables R8, R16 and R16S, the pair views (10_state.md R21 to R24, R26), the
effective addresses of every memory form (20_memory.md R65) and the conditions (46_control_transfer.md R320). -/

namespace Sys2Proof.Machine

/-! ### 8-bit registers (R21, R93) -/

/-- `R8[i]` read. -/
def State.getR8 (s : State) : R8 → Byte
  | .b => s.b
  | .c => s.c
  | .d => s.d
  | .e => s.e
  | .h => s.h
  | .l => s.l
  | .a => s.a

/-- `R8[i] <- v`: the partner of the register in its pair is untouched (R23). -/
def State.setR8 (s : State) (r : R8) (v : Byte) : State :=
  match r with
  | .b => { s with b := v }
  | .c => { s with c := v }
  | .d => { s with d := v }
  | .e => { s with e := v }
  | .h => { s with h := v }
  | .l => { s with l := v }
  | .a => { s with a := v }

/-- `A <- v`. -/
def State.setA (s : State) (v : Byte) : State := { s with a := v }

/-! ### PC, SP and IME (R28, R30, R31) -/

/-- `PC <- v`. -/
def State.setPc (s : State) (v : Word) : State := { s with pc := v }

/-- `SP <- v`. -/
def State.setSp (s : State) (v : Word) : State := { s with sp := v }

/-- `IME <- v`. -/
def State.setIme (s : State) (v : Bool) : State := { s with ime := v }

/-! ### Pair views (R22, R23): aliases, not storage -/

/-- AF = {A, F}. -/
def State.af (s : State) : Word := joinBytes s.a s.f

/-- BC = {B, C}. -/
def State.bc (s : State) : Word := joinBytes s.b s.c

/-- DE = {D, E}. -/
def State.de (s : State) : Word := joinBytes s.d s.e

/-- HL = {H, L}. -/
def State.hl (s : State) : Word := joinBytes s.h s.l

/-- Writing AF masks the low nibble of F (R26). -/
def State.setAF (s : State) (v : Word) : State := { s with a := hiByte v }.setF (loByte v)

/-- Writing BC writes both halves (R23). -/
def State.setBC (s : State) (v : Word) : State := { s with b := hiByte v, c := loByte v }

/-- Writing DE writes both halves (R23). -/
def State.setDE (s : State) (v : Word) : State := { s with d := hiByte v, e := loByte v }

/-- Writing HL writes both halves (R23). -/
def State.setHL (s : State) (v : Word) : State := { s with h := hiByte v, l := loByte v }

/-- `R16[i]` read. -/
def State.getR16 (s : State) : R16 → Word
  | .bc => s.bc
  | .de => s.de
  | .hl => s.hl
  | .sp => s.sp

/-- `R16[i] <- v`. -/
def State.setR16 (s : State) (rr : R16) (v : Word) : State :=
  match rr with
  | .bc => s.setBC v
  | .de => s.setDE v
  | .hl => s.setHL v
  | .sp => s.setSp v

/-- `R16S[i]` read. -/
def State.getR16S (s : State) : R16S → Word
  | .bc => s.bc
  | .de => s.de
  | .hl => s.hl
  | .af => s.af

/-- `R16S[i] <- v`. -/
def State.setR16S (s : State) (rr : R16S) (v : Word) : State :=
  match rr with
  | .bc => s.setBC v
  | .de => s.setDE v
  | .hl => s.setHL v
  | .af => s.setAF v

/-! ### Addresses and conditions -/

/-- The address of the forms `(a8)` and `(C)`: 0xFF00 plus the byte, never wraps (R65, R97). -/
def highPage (n : Byte) : Addr := joinBytes 0xFF n

/-- The target of an RST: `y * 8` (R331). -/
def rstTarget (t : RST) : Addr := BitVec.ofNat 16 (t.val * 8)

/-- `Cond(cc)` (R320). -/
def State.cond (s : State) : CC → Bool
  | .nz => !s.flagZ
  | .z => s.flagZ
  | .nc => !s.flagC
  | .c => s.flagC

end Sys2Proof.Machine
end

