-- ==== Sys2Proof/Machine/Ops.lean ====
section
/-! DEFINITION. Ops: FlatBus memory, the two bus accesses (20_memory.md R62, R63), 16-bit accesses (R66, R67), the
stack (45_load16_stack.md R300, R301), fetching (30_encoding.md R95), completing an instruction (R372, R374), and
raising InvalidOpcode (60_exceptions.md R400). -/

namespace Sys2Proof.Machine

/-! ### FlatBus memory (R61) -/

/-- What an address that is not listed reads as. DESIGN CHOICE (log entry 2, unsafe): 0x00, the convention of the
vectors of 95_test_vectors.md. -/
def Memory.unlisted : Byte := 0x00

/-- The byte at an address. -/
def Memory.read : Memory → Nat → Byte
  | [], _ => Memory.unlisted
  | (k, v) :: m, a => if k = a then v else Memory.read m a

/-- Replace one byte, keeping the canonical form: writing what an unlisted address reads as removes the entry. -/
def Memory.write : Memory → Nat → Byte → Memory
  | [], a, v => if v = Memory.unlisted then [] else [(a, v)]
  | (k, w) :: m, a, v =>
    if a < k then (if v = Memory.unlisted then (k, w) :: m else (a, v) :: (k, w) :: m)
    else if a = k then (if v = Memory.unlisted then m else (a, v) :: m)
    else (k, w) :: Memory.write m a v

/-- The canonical form from address `lo` upward: strictly rising, inside the 16-bit space (R60), no entry equal to
what an unlisted address reads as. -/
def Memory.wfFrom : Nat → Memory → Bool
  | _, [] => true
  | lo, (k, v) :: m => decide (lo ≤ k) && decide (k < 65536) && decide (v ≠ Memory.unlisted) && Memory.wfFrom (k + 1) m

/-- The canonical form of a memory. -/
def Memory.wf (m : Memory) : Bool := Memory.wfFrom 0 m

/-! ### Bus accesses (R61 to R64): they cannot fault -/

/-- The byte the bus answers to the next read at `a`: FlatBus its content, an external bus any byte (log entry 3). -/
def State.busValue (s : State) (a : Addr) : Byte :=
  match s.cfg.bus with
  | .flat => s.mem.read a.toNat
  | .external => (Config.busRead s.busState a).1

/-- The state an external bus is in after a read at `a`, which may have effects of its own on it (R61, R64). -/
def State.busAfterRead (s : State) (a : Addr) : Nat :=
  match s.cfg.bus with
  | .flat => s.busState
  | .external => (Config.busRead s.busState a).2

/-- The state an external bus is in after a write of `v` at `a` (R61). -/
def State.busAfterWrite (s : State) (a : Addr) (v : Byte) : Nat :=
  match s.cfg.bus with
  | .flat => s.busState
  | .external => Config.busWrite s.busState a v

/-- `MemRead(addr, 1)` (R62): exactly one bus read. -/
def State.memRead (s : State) (a : Addr) : Byte × State :=
  (s.busValue a,
    { s with accesses := s.accesses ++ [⟨.read, a, s.busValue a⟩], busState := s.busAfterRead a })

/-- `MemWrite(addr, 1, v)` (R63): exactly one bus write. What an external bus does with it is the bus's own. -/
def State.memWrite (s : State) (a : Addr) (v : Byte) : State :=
  { s with
    accesses := s.accesses ++ [⟨.write, a, v⟩]
    mem := match s.cfg.bus with
      | .flat => s.mem.write a.toNat v
      | .external => s.mem
    busState := s.busAfterWrite a v }

/-- `MemWrite(addr, 2, v)` (R67): the lower address first; the second address wraps. -/
def State.memWrite16 (s : State) (a : Addr) (v : Word) : State :=
  (s.memWrite a (lowerByte s.cfg.byteOrder v)).memWrite (a + 1) (upperByte s.cfg.byteOrder v)

/-- `MemRead(addr, 2)` (R66): the lower address first; the second address wraps. No instruction uses it but through
`Pop16`; it stands for the rule. -/
def State.memRead16 (s : State) (a : Addr) : Word × State :=
  let r0 := s.memRead a
  let r1 := r0.2.memRead (a + 1)
  (assemble s.cfg.byteOrder r0.1 r1.1, r1.2)

/-! ### Stack (R30, R300, R301) -/

/-- `Push16(v)` (R300): SP is decremented before each write, the higher address is written first. -/
def State.push16 (s : State) (v : Word) : State :=
  let s1 := s.setSp (s.sp - 1)
  let s2 := s1.memWrite s1.sp (upperByte s.cfg.byteOrder v)
  let s3 := s2.setSp (s2.sp - 1)
  s3.memWrite s3.sp (lowerByte s.cfg.byteOrder v)

/-- `Pop16()` (R301): SP is incremented after each read. -/
def State.pop16 (s : State) : Word × State :=
  let r0 := s.memRead s.sp
  let s1 := r0.2.setSp (r0.2.sp + 1)
  let r1 := s1.memRead s1.sp
  let s2 := r1.2.setSp (r1.2.sp + 1)
  (assemble s.cfg.byteOrder r0.1 r1.1, s2)

/-! ### Fetching (R94, R95, R371) -/

/-- `Fetch8()` (R95): the byte at PC, and PC advanced modulo 65536. -/
def State.fetch8 (s : State) : Byte × State :=
  let r := s.memRead s.pc
  (r.1, r.2.setPc (s.pc + 1))

/-- The list of accesses begins anew at every step (log entry 4). -/
def State.beginStep (s : State) : State := { s with accesses := [] }

/-- Fetch one whole instruction (R371 steps 1 to 3 and the operand fetches of R94): the opcode byte, then as many
bytes as its format has (R90, R106), each by `Fetch8`, the prefixed opcode among them. PC ends past them all; nothing
else is accessed before the last of them (R77). -/
def State.fetchInstr (s : State) : Instr × State :=
  let r0 := s.fetch8
  match lengthOfOpcode r0.1 with
  | 1 => (decodeInstr s.cfg.byteOrder r0.1 0 0, r0.2)
  | 2 =>
    let r1 := r0.2.fetch8
    (decodeInstr s.cfg.byteOrder r0.1 r1.1 0, r1.2)
  | _ =>
    let r1 := r0.2.fetch8
    let r2 := r1.2.fetch8
    (decodeInstr s.cfg.byteOrder r0.1 r1.1 r2.1, r2.2)

/-! ### Completing an instruction (R372, R374, R436) -/

/-- The outcome is the model's own record `last` (log entry 4). -/
def State.report (s : State) (r : StepReport) : State := { s with last := r }

/-- `Retired(M, T)` with `T = T_PER_M * M`. -/
def done (m : Nat) (s : State) : Result := .next (s.report (.retired m (s.cfg.tPerM * m)))

/-- `Halted(kind, M, T)` with `T = T_PER_M * M`. -/
def doneHalted (kind : HaltKind) (m : Nat) (s : State) : Result :=
  .next (s.report (.halted kind m (s.cfg.tPerM * m)))

/-! ### The one exception (R400, R401, R405) -/

/-- `raise InvalidOpcode(table, byte, addr)`: the core saves nothing, pushes nothing, vectors nowhere and changes no
register; the step's outcome carries the three values. There is no return from it (R406). -/
def raiseInvalidOpcode (table : TableKind) (byte : Byte) (addr : Addr) : Result :=
  .fault (.invalidOpcode table byte addr)

/-- The stop of an invalid primary byte (R356): `addr` is where the byte was fetched, one below PC as a meaning sees
it (log entry 7). -/
def invalidPrimary (byte : Byte) (s : State) : Result := raiseInvalidOpcode .primary byte (s.pc - 1)

end Sys2Proof.Machine
end

