-- ==== Sys2Proof/Machine/Alu16.lean ====
section
/-! DEFINITION. Alu16: the meanings of 42_alu16.md (R200 to R203). -/

namespace Sys2Proof.Machine

/-- ADD HL,rr (R200): F.Z left. -/
def execAddHLRr (rr : R16) (s : State) : Result :=
  let o := add16 s.hl (s.getR16 rr)
  done 2 ((s.setHL o.res).writeFlags none (some o.n) (some o.h) (some o.c))

/-- INC rr (R201): no flags. -/
def execIncRr (rr : R16) (s : State) : Result := done 2 (s.setR16 rr (inc16 (s.getR16 rr)))

/-- DEC rr (R202): no flags. -/
def execDecRr (rr : R16) (s : State) : Result := done 2 (s.setR16 rr (dec16 (s.getR16 rr)))

/-- ADD SP,e8 (R203). -/
def execAddSPE8 (e : Byte) (s : State) : Result :=
  let o := addSp s.sp e
  done 4 ((s.setSp o.res).writeFlags (some o.z) (some o.n) (some o.h) (some o.c))

end Sys2Proof.Machine
end

