-- ==== Sys2Proof/Machine/Alu8.lean ====
section
/-! DEFINITION. Alu8: the meanings of 41_alu8.md (R150 to R186). Each runs after the instruction's bytes have been
fetched, with PC past them (R371; log entry 7). -/

namespace Sys2Proof.Machine

/-! ### Shared operations -/

/-- `A <- res; flags <- (z, n, h, c)`, one update (R120). -/
def aluAcc (o : Alu8) (m : Nat) (s : State) : Result :=
  done m ((s.setA o.res).writeFlags (some o.z) (some o.n) (some o.h) (some o.c))

/-- `flags <- (z, n, h, c)` alone: the result is discarded (R171). -/
def aluFlags (o : Alu8) (m : Nat) (s : State) : Result :=
  done m (s.writeFlags (some o.z) (some o.n) (some o.h) (some o.c))

/-- INC and DEC of a register: F.C is left (R174, R176). -/
def stepR8 (f : Byte → Step8) (r : R8) (s : State) : Result :=
  let o := f (s.getR8 r)
  done 1 ((s.setR8 r o.res).writeFlags (some o.z) (some o.n) (some o.h) none)

/-- INC and DEC of the byte at HL: one read, one write (R175, R177). -/
def stepAtHL (f : Byte → Step8) (s : State) : Result :=
  let v := s.memRead s.hl
  let o := f v.1
  done 3 ((v.2.memWrite s.hl o.res).writeFlags (some o.z) (some o.n) (some o.h) none)

/-! ### ADD and ADC -/

/-- ADD A,r (R150). -/
def execAddAR (r : R8) (s : State) : Result := aluAcc (add8 s.a (s.getR8 r) false) 1 s

/-- ADD A,(HL) (R151). -/
def execAddAAtHL (s : State) : Result :=
  let v := s.memRead s.hl
  aluAcc (add8 s.a v.1 false) 2 v.2

/-- ADD A,d8 (R152). -/
def execAddAD8 (d : Byte) (s : State) : Result := aluAcc (add8 s.a d false) 2 s

/-- ADC A,r (R153): the old F.C is the carry-in. -/
def execAdcAR (r : R8) (s : State) : Result := aluAcc (add8 s.a (s.getR8 r) s.flagC) 1 s

/-- ADC A,(HL) (R154). -/
def execAdcAAtHL (s : State) : Result :=
  let v := s.memRead s.hl
  aluAcc (add8 s.a v.1 s.flagC) 2 v.2

/-- ADC A,d8 (R155). -/
def execAdcAD8 (d : Byte) (s : State) : Result := aluAcc (add8 s.a d s.flagC) 2 s

/-! ### SUB and SBC -/

/-- SUB r (R156). -/
def execSubR (r : R8) (s : State) : Result := aluAcc (sub8 s.a (s.getR8 r) false) 1 s

/-- SUB (HL) (R157). -/
def execSubAtHL (s : State) : Result :=
  let v := s.memRead s.hl
  aluAcc (sub8 s.a v.1 false) 2 v.2

/-- SUB d8 (R158). -/
def execSubD8 (d : Byte) (s : State) : Result := aluAcc (sub8 s.a d false) 2 s

/-- SBC A,r (R159): the old F.C is the borrow-in. -/
def execSbcAR (r : R8) (s : State) : Result := aluAcc (sub8 s.a (s.getR8 r) s.flagC) 1 s

/-- SBC A,(HL) (R160). -/
def execSbcAAtHL (s : State) : Result :=
  let v := s.memRead s.hl
  aluAcc (sub8 s.a v.1 s.flagC) 2 v.2

/-- SBC A,d8 (R161). -/
def execSbcAD8 (d : Byte) (s : State) : Result := aluAcc (sub8 s.a d s.flagC) 2 s

/-! ### AND, XOR, OR -/

/-- AND r (R162). -/
def execAndR (r : R8) (s : State) : Result := aluAcc (and8 s.a (s.getR8 r)) 1 s

/-- AND (HL) (R163). -/
def execAndAtHL (s : State) : Result :=
  let v := s.memRead s.hl
  aluAcc (and8 s.a v.1) 2 v.2

/-- AND d8 (R164). -/
def execAndD8 (d : Byte) (s : State) : Result := aluAcc (and8 s.a d) 2 s

/-- XOR r (R165). -/
def execXorR (r : R8) (s : State) : Result := aluAcc (xor8 s.a (s.getR8 r)) 1 s

/-- XOR (HL) (R166). -/
def execXorAtHL (s : State) : Result :=
  let v := s.memRead s.hl
  aluAcc (xor8 s.a v.1) 2 v.2

/-- XOR d8 (R167). -/
def execXorD8 (d : Byte) (s : State) : Result := aluAcc (xor8 s.a d) 2 s

/-- OR r (R168). -/
def execOrR (r : R8) (s : State) : Result := aluAcc (or8 s.a (s.getR8 r)) 1 s

/-- OR (HL) (R169). -/
def execOrAtHL (s : State) : Result :=
  let v := s.memRead s.hl
  aluAcc (or8 s.a v.1) 2 v.2

/-- OR d8 (R170). -/
def execOrD8 (d : Byte) (s : State) : Result := aluAcc (or8 s.a d) 2 s

/-! ### CP -/

/-- CP r (R171). -/
def execCpR (r : R8) (s : State) : Result := aluFlags (sub8 s.a (s.getR8 r) false) 1 s

/-- CP (HL) (R172). -/
def execCpAtHL (s : State) : Result :=
  let v := s.memRead s.hl
  aluFlags (sub8 s.a v.1 false) 2 v.2

/-- CP d8 (R173). -/
def execCpD8 (d : Byte) (s : State) : Result := aluFlags (sub8 s.a d false) 2 s

/-! ### INC and DEC, 8-bit -/

/-- INC r (R174). -/
def execIncR (r : R8) (s : State) : Result := stepR8 inc8 r s

/-- INC (HL) (R175). -/
def execIncAtHL (s : State) : Result := stepAtHL inc8 s

/-- DEC r (R176). -/
def execDecR (r : R8) (s : State) : Result := stepR8 dec8 r s

/-- DEC (HL) (R177). -/
def execDecAtHL (s : State) : Result := stepAtHL dec8 s

/-! ### DAA, CPL, SCF, CCF -/

/-- DAA (R183): F.N left, F.H written 0. -/
def execDaa (s : State) : Result :=
  let o := daa s.a s.flagN s.flagH s.flagC
  done 1 ((s.setA o.res).writeFlags (some o.z) none (some false) (some o.c))

/-- CPL (R184): F.Z and F.C left. -/
def execCpl (s : State) : Result :=
  done 1 ((s.setA (~~~s.a)).writeFlags none (some true) (some true) none)

/-- SCF (R185): F.Z left. -/
def execScf (s : State) : Result := done 1 (s.writeFlags none (some false) (some false) (some true))

/-- CCF (R186): F.Z left, F.C inverted. -/
def execCcf (s : State) : Result := done 1 (s.writeFlags none (some false) (some false) (some (!s.flagC)))

end Sys2Proof.Machine
end

