-- ==== Sys2Proof/Machine/Control.lean ====
section
/-! DEFINITION. Control: jumps, calls, returns and restarts of 46_control_transfer.md (R321 to R331). PC as a meaning
sees it is past the operand bytes, which have been fetched whether or not the transfer is taken (R94, D24). -/

namespace Sys2Proof.Machine

/-! ### Shared operations -/

/-- `PC <- t`. -/
def jumpTo (t : Addr) (s : State) : State := s.setPc t

/-- `PC <- PC +_16 sext_16(e)` (R324). -/
def jumpRel (e : Byte) (s : State) : State := s.setPc (s.pc + sext16 e)

/-- `Push16(PC); PC <- t` (R326, R331). -/
def callTo (t : Addr) (s : State) : State := jumpTo t (s.push16 s.pc)

/-- `PC <- Pop16()` (R328). -/
def returnFrom (s : State) : State := jumpTo s.pop16.1 s.pop16.2

/-! ### Jumps -/

/-- JP a16 (R321). -/
def execJpA16 (t : Addr) (s : State) : Result := done 4 (jumpTo t s)

/-- JP cc,a16 (R322). -/
def execJpCcA16 (cc : CC) (t : Addr) (s : State) : Result :=
  if s.cond cc then done 4 (jumpTo t s) else done 3 s

/-- JP HL (R323): no memory is read. -/
def execJpHL (s : State) : Result := done 1 (jumpTo s.hl s)

/-- JR e8 (R324). -/
def execJrE8 (e : Byte) (s : State) : Result := done 3 (jumpRel e s)

/-- JR cc,e8 (R325). -/
def execJrCcE8 (cc : CC) (e : Byte) (s : State) : Result :=
  if s.cond cc then done 3 (jumpRel e s) else done 2 s

/-! ### Calls and returns -/

/-- CALL a16 (R326). -/
def execCallA16 (t : Addr) (s : State) : Result := done 6 (callTo t s)

/-- CALL cc,a16 (R327). -/
def execCallCcA16 (cc : CC) (t : Addr) (s : State) : Result :=
  if s.cond cc then done 6 (callTo t s) else done 3 s

/-- RET (R328). -/
def execRet (s : State) : Result := done 4 (returnFrom s)

/-- RET cc (R329): not taken, no stack access. -/
def execRetCc (cc : CC) (s : State) : Result :=
  if s.cond cc then done 5 (returnFrom s) else done 2 s

/-- RETI (R330): RET, and IME set in the same step (D8). -/
def execReti (s : State) : Result := done 4 ((returnFrom s).setIme true)

/-- RST t (R331). -/
def execRstT (t : RST) (s : State) : Result := done 4 (callTo (rstTarget t) s)

end Sys2Proof.Machine
end

