-- ==== Sys2Proof/Machine/Load16.lean ====
section
/-! DEFINITION. Load16: the instructions of 45_load16_stack.md (R302 to R307). -/

namespace Sys2Proof.Machine

/-- LD rr,d16 (R302). -/
def execLdRrD16 (rr : R16) (d : Word) (s : State) : Result := done 3 (s.setR16 rr d)

/-- LD (a16),SP (R303). -/
def execLdAtA16SP (addr : Addr) (s : State) : Result := done 5 (s.memWrite16 addr s.sp)

/-- PUSH rr (R304). -/
def execPushRr (rr : R16S) (s : State) : Result := done 4 (s.push16 (s.getR16S rr))

/-- POP rr (R305): POP AF masks F (R26). -/
def execPopRr (rr : R16S) (s : State) : Result :=
  let v := s.pop16
  done 3 (v.2.setR16S rr v.1)

/-- LD SP,HL (R306). -/
def execLdSPHL (s : State) : Result := done 2 (s.setSp s.hl)

/-- LD HL,SP+e8 (R307): SP is not written. -/
def execLdHLSPE8 (e : Byte) (s : State) : Result :=
  let o := addSp s.sp e
  done 3 ((s.setHL o.res).writeFlags (some o.z) (some o.n) (some o.h) (some o.c))

end Sys2Proof.Machine
end

