-- ==== Sys2Proof/Machine/Load8.lean ====
section
/-! DEFINITION. Load8: the meanings of 44_load8.md (R260 to R279). No load of this file writes a flag. -/

namespace Sys2Proof.Machine

/-! ### Shared operations -/

/-- `A <- MemRead(addr, 1)`. -/
def loadA (addr : Addr) (m : Nat) (s : State) : Result :=
  let v := s.memRead addr
  done m (v.2.setA v.1)

/-- `MemWrite(addr, 1, A)`. -/
def storeA (addr : Addr) (m : Nat) (s : State) : Result := done m (s.memWrite addr s.a)

/-! ### Register and (HL) moves -/

/-- LD r,r' (R260). -/
def execLdRR (dst src : R8) (s : State) : Result := done 1 (s.setR8 dst (s.getR8 src))

/-- LD r,(HL) (R261): the address is formed from the old HL. -/
def execLdRAtHL (dst : R8) (s : State) : Result :=
  let v := s.memRead s.hl
  done 2 (v.2.setR8 dst v.1)

/-- LD (HL),r (R262). -/
def execLdAtHLR (r : R8) (s : State) : Result := done 2 (s.memWrite s.hl (s.getR8 r))

/-- LD r,d8 (R263). -/
def execLdRD8 (r : R8) (d : Byte) (s : State) : Result := done 2 (s.setR8 r d)

/-- LD (HL),d8 (R264). -/
def execLdAtHLD8 (d : Byte) (s : State) : Result := done 3 (s.memWrite s.hl d)

/-! ### Accumulator and (BC), (DE), (HL+), (HL-) -/

/-- LD A,(BC) (R265). -/
def execLdAAtBC (s : State) : Result := loadA s.bc 2 s

/-- LD A,(DE) (R266). -/
def execLdAAtDE (s : State) : Result := loadA s.de 2 s

/-- LD (BC),A (R267). -/
def execLdAtBCA (s : State) : Result := storeA s.bc 2 s

/-- LD (DE),A (R268). -/
def execLdAtDEA (s : State) : Result := storeA s.de 2 s

/-- LD A,(HL+) (R269): HL is incremented after the read. -/
def execLdAAtHLInc (s : State) : Result :=
  let v := s.memRead s.hl
  done 2 ((v.2.setA v.1).setHL (inc16 s.hl))

/-- LD A,(HL-) (R270): HL is decremented after the read. -/
def execLdAAtHLDec (s : State) : Result :=
  let v := s.memRead s.hl
  done 2 ((v.2.setA v.1).setHL (dec16 s.hl))

/-- LD (HL+),A (R271): HL is incremented after the write. -/
def execLdAtHLIncA (s : State) : Result := done 2 ((s.memWrite s.hl s.a).setHL (inc16 s.hl))

/-- LD (HL-),A (R272): HL is decremented after the write. -/
def execLdAtHLDecA (s : State) : Result := done 2 ((s.memWrite s.hl s.a).setHL (dec16 s.hl))

/-! ### Accumulator and absolute or page-0xFF addresses -/

/-- LD A,(a16) (R273). -/
def execLdAAtA16 (addr : Addr) (s : State) : Result := loadA addr 4 s

/-- LD (a16),A (R274). -/
def execLdAtA16A (addr : Addr) (s : State) : Result := storeA addr 4 s

/-- LDH (a8),A (R276). -/
def execLdhAtA8A (a : Byte) (s : State) : Result := storeA (highPage a) 3 s

/-- LDH A,(a8) (R277). -/
def execLdhAAtA8 (a : Byte) (s : State) : Result := loadA (highPage a) 3 s

/-- LD (C),A (R278): `C` is the register. -/
def execLdAtCA (s : State) : Result := storeA (highPage s.c) 2 s

/-- LD A,(C) (R279): `C` is the register. -/
def execLdAAtC (s : State) : Result := loadA (highPage s.c) 2 s

end Sys2Proof.Machine
end

