-- ==== Sys2Proof/Machine/Misc.lean ====
section
/-! DEFINITION. Misc: NOP, HALT, STOP, DI, EI and the eleven invalid bytes of 47_misc_system.md. -/

namespace Sys2Proof.Machine

/-- NOP (R350). -/
def execNop (s : State) : Result := done 1 s

/-- HALT (R351): ends the step with `Halted(HALT, 1, T_PER_M)`; no halted latch (D7; log entry 9). -/
def execHalt (s : State) : Result := doneHalted .halt 1 s

/-- STOP (R352): ends the step with `Halted(STOP, 1, T_PER_M)`; the pad byte is not used. -/
def execStop (_pad : Byte) (s : State) : Result := doneHalted .stop 1 s

/-- DI (R353): takes effect at once. -/
def execDi (s : State) : Result := done 1 (s.setIme false)

/-- EI (R354): takes effect at once (D8). -/
def execEi (s : State) : Result := done 1 (s.setIme true)

/-! ### The invalid primary bytes (R356, R104, R400) -/

/-- The invalid byte 0xD3 (R356). -/
def execInvalidD3 (s : State) : Result := invalidPrimary 0xD3 s

/-- The invalid byte 0xDB (R356). -/
def execInvalidDB (s : State) : Result := invalidPrimary 0xDB s

/-- The invalid byte 0xDD (R356). -/
def execInvalidDD (s : State) : Result := invalidPrimary 0xDD s

/-- The invalid byte 0xE3 (R356). -/
def execInvalidE3 (s : State) : Result := invalidPrimary 0xE3 s

/-- The invalid byte 0xE4 (R356). -/
def execInvalidE4 (s : State) : Result := invalidPrimary 0xE4 s

/-- The invalid byte 0xEB (R356). -/
def execInvalidEB (s : State) : Result := invalidPrimary 0xEB s

/-- The invalid byte 0xEC (R356). -/
def execInvalidEC (s : State) : Result := invalidPrimary 0xEC s

/-- The invalid byte 0xED (R356). -/
def execInvalidED (s : State) : Result := invalidPrimary 0xED s

/-- The invalid byte 0xF4 (R356). -/
def execInvalidF4 (s : State) : Result := invalidPrimary 0xF4 s

/-- The invalid byte 0xFC (R356). -/
def execInvalidFC (s : State) : Result := invalidPrimary 0xFC s

/-- The invalid byte 0xFD (R356). -/
def execInvalidFD (s : State) : Result := invalidPrimary 0xFD s

end Sys2Proof.Machine
end

