-- ==== Sys2Proof/Machine/Rotate.lean ====
section
/-! DEFINITION. Rotate: the meanings of 43_rotate_shift_bit.md (R220 to R245). For a secondary-table instruction both
bytes have been fetched and PC is past them. -/

namespace Sys2Proof.Machine

/-! ### Shared operations -/

/-- `zacc(res)`: F.Z of the four accumulator rotates, by the parameter `ACC_ROTATE_Z` (section 1; D5). -/
def zacc (s : State) (res : Byte) : Bool :=
  match s.cfg.accRotateZ with
  | .fromResult => decide (res = 0)
  | .cleared => false

/-- An accumulator rotate: `A <- res; flags <- (zacc(res), 0, 0, c)` (R220 to R223). -/
def rotateAcc (o : Shift8) (s : State) : Result :=
  done 1 ((s.setA o.res).writeFlags (some (zacc s o.res)) (some false) (some false) (some o.c))

/-- A rotate or shift of a register: `R8[r] <- res; flags <- (res == 0, 0, 0, c)` (R128, section 2). -/
def shiftR8 (f : Byte → Shift8) (r : R8) (s : State) : Result :=
  let o := f (s.getR8 r)
  done 2 ((s.setR8 r o.res).writeFlags (some (decide (o.res = 0))) (some false) (some false) (some o.c))

/-- A rotate or shift of the byte at HL: one read, one write, flags from the value read (R225). -/
def shiftAtHL (f : Byte → Shift8) (s : State) : Result :=
  let v := s.memRead s.hl
  let o := f v.1
  done 4 ((v.2.memWrite s.hl o.res).writeFlags (some (decide (o.res = 0))) (some false) (some false) (some o.c))

/-- `flags <- (1 - v[b], 0, 1, -)` (R240). -/
def bitTest (v : Byte) (b : Fin 8) (m : Nat) (s : State) : Result :=
  done m (s.writeFlags (some (!v.getLsbD b.val)) (some false) (some true) none)

/-- A byte changed at HL without flags: one read, one write (R243, R245). -/
def modifyAtHL (f : Byte → Byte) (s : State) : Result :=
  let v := s.memRead s.hl
  done 4 (v.2.memWrite s.hl (f v.1))

/-! ### Accumulator rotates (primary table) -/

/-- RLCA (R220). -/
def execRlca (s : State) : Result := rotateAcc (rlc8 s.a) s

/-- RRCA (R221). -/
def execRrca (s : State) : Result := rotateAcc (rrc8 s.a) s

/-- RLA (R222). -/
def execRla (s : State) : Result := rotateAcc (rl8 s.a s.flagC) s

/-- RRA (R223). -/
def execRra (s : State) : Result := rotateAcc (rr8 s.a s.flagC) s

/-! ### Rotates and shifts of the secondary table -/

/-- RLC r (R224). -/
def execRlcR (r : R8) (s : State) : Result := shiftR8 rlc8 r s

/-- RLC (HL) (R225). -/
def execRlcAtHL (s : State) : Result := shiftAtHL rlc8 s

/-- RRC r (R226). -/
def execRrcR (r : R8) (s : State) : Result := shiftR8 rrc8 r s

/-- RRC (HL) (R227). -/
def execRrcAtHL (s : State) : Result := shiftAtHL rrc8 s

/-- RL r (R228). -/
def execRlR (r : R8) (s : State) : Result := shiftR8 (fun v => rl8 v s.flagC) r s

/-- RL (HL) (R229). -/
def execRlAtHL (s : State) : Result := shiftAtHL (fun v => rl8 v s.flagC) s

/-- RR r (R230). -/
def execRrR (r : R8) (s : State) : Result := shiftR8 (fun v => rr8 v s.flagC) r s

/-- RR (HL) (R231). -/
def execRrAtHL (s : State) : Result := shiftAtHL (fun v => rr8 v s.flagC) s

/-- SLA r (R232). -/
def execSlaR (r : R8) (s : State) : Result := shiftR8 sla8 r s

/-- SLA (HL) (R233). -/
def execSlaAtHL (s : State) : Result := shiftAtHL sla8 s

/-- SRA r (R234). -/
def execSraR (r : R8) (s : State) : Result := shiftR8 sra8 r s

/-- SRA (HL) (R235). -/
def execSraAtHL (s : State) : Result := shiftAtHL sra8 s

/-- SWAP r (R236). -/
def execSwapR (r : R8) (s : State) : Result := shiftR8 swap8 r s

/-- SWAP (HL) (R237). -/
def execSwapAtHL (s : State) : Result := shiftAtHL swap8 s

/-- SRL r (R238). -/
def execSrlR (r : R8) (s : State) : Result := shiftR8 srl8 r s

/-- SRL (HL) (R239). -/
def execSrlAtHL (s : State) : Result := shiftAtHL srl8 s

/-! ### Bit test, reset and set -/

/-- BIT b,r (R240): no register is written. -/
def execBitBR (b : Fin 8) (r : R8) (s : State) : Result := bitTest (s.getR8 r) b 2 s

/-- BIT b,(HL) (R241): memory is not written. -/
def execBitBAtHL (b : Fin 8) (s : State) : Result :=
  let v := s.memRead s.hl
  bitTest v.1 b 3 v.2

/-- RES b,r (R242). -/
def execResBR (b : Fin 8) (r : R8) (s : State) : Result := done 2 (s.setR8 r (s.getR8 r &&& ~~~bitMask b))

/-- RES b,(HL) (R243). -/
def execResBAtHL (b : Fin 8) (s : State) : Result := modifyAtHL (fun v => v &&& ~~~bitMask b) s

/-- SET b,r (R244). -/
def execSetBR (b : Fin 8) (r : R8) (s : State) : Result := done 2 (s.setR8 r (s.getR8 r ||| bitMask b))

/-- SET b,(HL) (R245). -/
def execSetBAtHL (b : Fin 8) (s : State) : Result := modifyAtHL (fun v => v ||| bitMask b) s

end Sys2Proof.Machine
end

