-- ==== Sys2Proof/Machine/Prefix.lean ====
section
/-! DEFINITION. Prefix: the meaning of the bare table entry 0xCB (R355, R371 step 3): fetch the next byte, advance PC
again, dispatch that byte through the secondary table. `step` fetches both bytes before it dispatches, so it meets the
secondary instruction directly; this meaning is the engine's step 3 as the rule words it (log entry 7). -/

namespace Sys2Proof.Machine

/-- Dispatch of a secondary-table entry; `op` is its byte and `addr` where it was fetched. An entry that is none of
the 22 secondary rows cannot arise (R102); R371 keeps the case, and so does this. -/
def runSecondary (op : Byte) (addr : Addr) (i : Instr) (s : State) : Result :=
  match i with
  | .rlcR r => execRlcR r s
  | .rlcAtHL => execRlcAtHL s
  | .rrcR r => execRrcR r s
  | .rrcAtHL => execRrcAtHL s
  | .rlR r => execRlR r s
  | .rlAtHL => execRlAtHL s
  | .rrR r => execRrR r s
  | .rrAtHL => execRrAtHL s
  | .slaR r => execSlaR r s
  | .slaAtHL => execSlaAtHL s
  | .sraR r => execSraR r s
  | .sraAtHL => execSraAtHL s
  | .swapR r => execSwapR r s
  | .swapAtHL => execSwapAtHL s
  | .srlR r => execSrlR r s
  | .srlAtHL => execSrlAtHL s
  | .bitBR b r => execBitBR b r s
  | .bitBAtHL b => execBitBAtHL b s
  | .resBR b r => execResBR b r s
  | .resBAtHL b => execResBAtHL b s
  | .setBR b r => execSetBR b r s
  | .setBAtHL b => execSetBAtHL b s
  | _ => raiseInvalidOpcode .secondary op addr

/-- The prefix byte 0xCB (R355). -/
def execPrefixCB (s : State) : Result :=
  let r := s.fetch8
  runSecondary r.1 s.pc (decodeSecondary r.1) r.2

end Sys2Proof.Machine
end

