-- ==== Sys2Proof/Machine/Dispatch.lean ====
section
/-! DEFINITION. Dispatch: one arm per constructor of Instr, in the order of spec/opcode_table.json. -/

namespace Sys2Proof.Machine

def exec (i : Instr) (s : State) : Host.Outcome State Fault Refusal :=
  match i with
  | .nop => Sys2Proof.Machine.execNop s
  | .ldAtA16SP addr => Sys2Proof.Machine.execLdAtA16SP addr s
  | .stop pad => Sys2Proof.Machine.execStop pad s
  | .jrE8 e => Sys2Proof.Machine.execJrE8 e s
  | .jrCcE8 cc e => Sys2Proof.Machine.execJrCcE8 cc e s
  | .ldRrD16 rr d => Sys2Proof.Machine.execLdRrD16 rr d s
  | .addHLRr rr => Sys2Proof.Machine.execAddHLRr rr s
  | .ldAtBCA => Sys2Proof.Machine.execLdAtBCA s
  | .ldAtDEA => Sys2Proof.Machine.execLdAtDEA s
  | .ldAtHLIncA => Sys2Proof.Machine.execLdAtHLIncA s
  | .ldAtHLDecA => Sys2Proof.Machine.execLdAtHLDecA s
  | .ldAAtBC => Sys2Proof.Machine.execLdAAtBC s
  | .ldAAtDE => Sys2Proof.Machine.execLdAAtDE s
  | .ldAAtHLInc => Sys2Proof.Machine.execLdAAtHLInc s
  | .ldAAtHLDec => Sys2Proof.Machine.execLdAAtHLDec s
  | .incRr rr => Sys2Proof.Machine.execIncRr rr s
  | .decRr rr => Sys2Proof.Machine.execDecRr rr s
  | .incR r => Sys2Proof.Machine.execIncR r s
  | .incAtHL => Sys2Proof.Machine.execIncAtHL s
  | .decR r => Sys2Proof.Machine.execDecR r s
  | .decAtHL => Sys2Proof.Machine.execDecAtHL s
  | .ldRD8 r d => Sys2Proof.Machine.execLdRD8 r d s
  | .ldAtHLD8 d => Sys2Proof.Machine.execLdAtHLD8 d s
  | .rlca => Sys2Proof.Machine.execRlca s
  | .rrca => Sys2Proof.Machine.execRrca s
  | .rla => Sys2Proof.Machine.execRla s
  | .rra => Sys2Proof.Machine.execRra s
  | .daa => Sys2Proof.Machine.execDaa s
  | .cpl => Sys2Proof.Machine.execCpl s
  | .scf => Sys2Proof.Machine.execScf s
  | .ccf => Sys2Proof.Machine.execCcf s
  | .ldRR dst src => Sys2Proof.Machine.execLdRR dst src s
  | .ldRAtHL dst => Sys2Proof.Machine.execLdRAtHL dst s
  | .ldAtHLR r => Sys2Proof.Machine.execLdAtHLR r s
  | .halt => Sys2Proof.Machine.execHalt s
  | .addAR r => Sys2Proof.Machine.execAddAR r s
  | .addAAtHL => Sys2Proof.Machine.execAddAAtHL s
  | .adcAR r => Sys2Proof.Machine.execAdcAR r s
  | .adcAAtHL => Sys2Proof.Machine.execAdcAAtHL s
  | .subR r => Sys2Proof.Machine.execSubR r s
  | .subAtHL => Sys2Proof.Machine.execSubAtHL s
  | .sbcAR r => Sys2Proof.Machine.execSbcAR r s
  | .sbcAAtHL => Sys2Proof.Machine.execSbcAAtHL s
  | .andR r => Sys2Proof.Machine.execAndR r s
  | .andAtHL => Sys2Proof.Machine.execAndAtHL s
  | .xorR r => Sys2Proof.Machine.execXorR r s
  | .xorAtHL => Sys2Proof.Machine.execXorAtHL s
  | .orR r => Sys2Proof.Machine.execOrR r s
  | .orAtHL => Sys2Proof.Machine.execOrAtHL s
  | .cpR r => Sys2Proof.Machine.execCpR r s
  | .cpAtHL => Sys2Proof.Machine.execCpAtHL s
  | .addAD8 d => Sys2Proof.Machine.execAddAD8 d s
  | .adcAD8 d => Sys2Proof.Machine.execAdcAD8 d s
  | .subD8 d => Sys2Proof.Machine.execSubD8 d s
  | .sbcAD8 d => Sys2Proof.Machine.execSbcAD8 d s
  | .andD8 d => Sys2Proof.Machine.execAndD8 d s
  | .xorD8 d => Sys2Proof.Machine.execXorD8 d s
  | .orD8 d => Sys2Proof.Machine.execOrD8 d s
  | .cpD8 d => Sys2Proof.Machine.execCpD8 d s
  | .retCc cc => Sys2Proof.Machine.execRetCc cc s
  | .ldhAtA8A a => Sys2Proof.Machine.execLdhAtA8A a s
  | .addSPE8 e => Sys2Proof.Machine.execAddSPE8 e s
  | .ldhAAtA8 a => Sys2Proof.Machine.execLdhAAtA8 a s
  | .ldHLSPE8 e => Sys2Proof.Machine.execLdHLSPE8 e s
  | .popRr rr => Sys2Proof.Machine.execPopRr rr s
  | .ret => Sys2Proof.Machine.execRet s
  | .reti => Sys2Proof.Machine.execReti s
  | .jpHL => Sys2Proof.Machine.execJpHL s
  | .ldSPHL => Sys2Proof.Machine.execLdSPHL s
  | .jpCcA16 cc t => Sys2Proof.Machine.execJpCcA16 cc t s
  | .ldAtCA => Sys2Proof.Machine.execLdAtCA s
  | .ldAtA16A addr => Sys2Proof.Machine.execLdAtA16A addr s
  | .ldAAtC => Sys2Proof.Machine.execLdAAtC s
  | .ldAAtA16 addr => Sys2Proof.Machine.execLdAAtA16 addr s
  | .jpA16 t => Sys2Proof.Machine.execJpA16 t s
  | .prefixCB => Sys2Proof.Machine.execPrefixCB s
  | .di => Sys2Proof.Machine.execDi s
  | .ei => Sys2Proof.Machine.execEi s
  | .callCcA16 cc t => Sys2Proof.Machine.execCallCcA16 cc t s
  | .pushRr rr => Sys2Proof.Machine.execPushRr rr s
  | .callA16 t => Sys2Proof.Machine.execCallA16 t s
  | .rstT t => Sys2Proof.Machine.execRstT t s
  | .invalidD3 => Sys2Proof.Machine.execInvalidD3 s
  | .invalidDB => Sys2Proof.Machine.execInvalidDB s
  | .invalidDD => Sys2Proof.Machine.execInvalidDD s
  | .invalidE3 => Sys2Proof.Machine.execInvalidE3 s
  | .invalidE4 => Sys2Proof.Machine.execInvalidE4 s
  | .invalidEB => Sys2Proof.Machine.execInvalidEB s
  | .invalidEC => Sys2Proof.Machine.execInvalidEC s
  | .invalidED => Sys2Proof.Machine.execInvalidED s
  | .invalidF4 => Sys2Proof.Machine.execInvalidF4 s
  | .invalidFC => Sys2Proof.Machine.execInvalidFC s
  | .invalidFD => Sys2Proof.Machine.execInvalidFD s
  | .rlcR r => Sys2Proof.Machine.execRlcR r s
  | .rlcAtHL => Sys2Proof.Machine.execRlcAtHL s
  | .rrcR r => Sys2Proof.Machine.execRrcR r s
  | .rrcAtHL => Sys2Proof.Machine.execRrcAtHL s
  | .rlR r => Sys2Proof.Machine.execRlR r s
  | .rlAtHL => Sys2Proof.Machine.execRlAtHL s
  | .rrR r => Sys2Proof.Machine.execRrR r s
  | .rrAtHL => Sys2Proof.Machine.execRrAtHL s
  | .slaR r => Sys2Proof.Machine.execSlaR r s
  | .slaAtHL => Sys2Proof.Machine.execSlaAtHL s
  | .sraR r => Sys2Proof.Machine.execSraR r s
  | .sraAtHL => Sys2Proof.Machine.execSraAtHL s
  | .swapR r => Sys2Proof.Machine.execSwapR r s
  | .swapAtHL => Sys2Proof.Machine.execSwapAtHL s
  | .srlR r => Sys2Proof.Machine.execSrlR r s
  | .srlAtHL => Sys2Proof.Machine.execSrlAtHL s
  | .bitBR b r => Sys2Proof.Machine.execBitBR b r s
  | .bitBAtHL b => Sys2Proof.Machine.execBitBAtHL b s
  | .resBR b r => Sys2Proof.Machine.execResBR b r s
  | .resBAtHL b => Sys2Proof.Machine.execResBAtHL b s
  | .setBR b r => Sys2Proof.Machine.execSetBR b r s
  | .setBAtHL b => Sys2Proof.Machine.execSetBAtHL b s

end Sys2Proof.Machine
end

