-- ==== Sys2Proof/Machine/Step.lean ====
section
/-! DEFINITION. Step: one step of the engine (48_execution_engine.md R370, R371), and the placing of a word where the
next step fetches. -/

namespace Sys2Proof.Machine

/-- One step: refused while a field has never been written (R35, R432); otherwise fetch one whole instruction (R371
steps 1 to 3), refuse it by name if `ADMIT` does not allow its tier (R107), and run its operation (step 4). -/
def step (s : State) : Host.Outcome State Fault Refusal :=
  if s.written = Written.all then
    let r := s.beginStep.fetchInstr
    if admits s.cfg.admission (tierOf r.1) then exec r.1 r.2 else .refused (.notAdmitted r.1)
  else .refused .beforeReset

/-- Place bytes at an address and upward, wrapping at the top of the space. -/
def placeBytes (m : Memory) (a : Addr) : List Byte → Memory
  | [] => m
  | b :: bs => placeBytes (m.write a.toNat b) (a + 1) bs

/-- `s` with the instruction of a table word (R109) stored where the next step fetches: at PC, on FlatBus (log
entry 11). -/
def State.withFetchWord (s : State) (nbits w : Nat) : State :=
  { s with
    mem := placeBytes s.mem s.pc (tableBytes nbits w)
    cfg := { s.cfg with bus := .flat } }

end Sys2Proof.Machine
end

