-- ==== Sys2Proof/Machine/HostMoves.lean ====
section
/-! DEFINITION. HostMoves: what the host may do between two steps (10_state.md R35, R37, R38; 48_execution_engine.md
R380): create, reset, get, set, and touch the bus's memory (R74). -/

namespace Sys2Proof.Machine

/-- The core as created (R35): no field written. The zeros below are no values of the spec's: `written` says that they
may not be read, `step` is refused and a get faults (log entry 5). -/
def State.created : State := { State.reset with ime := false, written := Written.none }

/-- `reset()` (R430): every field, whatever it held; memory and parameters untouched. -/
def State.coreReset (s : State) : State :=
  { s with
    a := 0
    b := 0
    c := 0
    d := 0
    e := 0
    h := 0
    l := 0
    f := 0
    pc := 0
    sp := 0
    ime := true
    written := Written.all
    last := .none
    accesses := [] }

/-- Whether every field behind an accessor has been written (R35). -/
def Written.has (w : Written) : HostReg → Bool
  | .a => w.a
  | .b => w.b
  | .c => w.c
  | .d => w.d
  | .e => w.e
  | .h => w.h
  | .l => w.l
  | .f => w.f
  | .af => w.a && w.f
  | .bc => w.b && w.c
  | .de => w.d && w.e
  | .hl => w.h && w.l
  | .pc => w.pc
  | .sp => w.sp
  | .ime => w.ime

/-- The fields an accessor writes count as written from then on (R35). -/
def Written.mark (w : Written) : HostReg → Written
  | .a => { w with a := true }
  | .b => { w with b := true }
  | .c => { w with c := true }
  | .d => { w with d := true }
  | .e => { w with e := true }
  | .h => { w with h := true }
  | .l => { w with l := true }
  | .f => { w with f := true }
  | .af => { w with a := true, f := true }
  | .bc => { w with b := true, c := true }
  | .de => { w with d := true, e := true }
  | .hl => { w with h := true, l := true }
  | .pc => { w with pc := true }
  | .sp => { w with sp := true }
  | .ime => { w with ime := true }

/-- The value behind an accessor as a number (R37). -/
def State.hostValue (s : State) : HostReg → Nat
  | .a => s.a.toNat
  | .b => s.b.toNat
  | .c => s.c.toNat
  | .d => s.d.toNat
  | .e => s.e.toNat
  | .h => s.h.toNat
  | .l => s.l.toNat
  | .f => s.f.toNat
  | .af => s.af.toNat
  | .bc => s.bc.toNat
  | .de => s.de.toNat
  | .hl => s.hl.toNat
  | .pc => s.pc.toNat
  | .sp => s.sp.toNat
  | .ime => s.ime.toNat

/-- A host get (R37): the value, or a fault of the host where a field behind it was never written (R35). -/
def hostGet (r : HostReg) (s : State) : Except Fault Nat :=
  if s.written.has r then .ok (s.hostValue r) else .error (.unwrittenField r)

/-- The field write of a host set: truncated to the field's width, F and AF masked (R37, R26). -/
def State.hostStore (s : State) (r : HostReg) (v : Nat) : State :=
  match r with
  | .a => { s with a := BitVec.ofNat 8 v }
  | .b => { s with b := BitVec.ofNat 8 v }
  | .c => { s with c := BitVec.ofNat 8 v }
  | .d => { s with d := BitVec.ofNat 8 v }
  | .e => { s with e := BitVec.ofNat 8 v }
  | .h => { s with h := BitVec.ofNat 8 v }
  | .l => { s with l := BitVec.ofNat 8 v }
  | .f => s.setF (BitVec.ofNat 8 v)
  | .af => s.setAF (BitVec.ofNat 16 v)
  | .bc => s.setBC (BitVec.ofNat 16 v)
  | .de => s.setDE (BitVec.ofNat 16 v)
  | .hl => s.setHL (BitVec.ofNat 16 v)
  | .pc => { s with pc := BitVec.ofNat 16 v }
  | .sp => { s with sp := BitVec.ofNat 16 v }
  | .ime => { s with ime := decide (v % 2 = 1) }

/-- A host set (R37): it cannot fail, and it defines the fields it writes (R35). -/
def hostSet (r : HostReg) (v : Nat) (s : State) : State :=
  let t := s.hostStore r v
  { t with written := s.written.mark r }

/-- The host changes one byte of FlatBus between two steps (R74). -/
def hostPoke (a : Addr) (v : Byte) (s : State) : State := { s with mem := s.mem.write a.toNat v }

/-- An external bus is in another state when the next step begins: the host touched what lies behind it, or it changed
on its own account (R74, R370). -/
def hostBus (b : Nat) (s : State) : State := { s with busState := b }

/-- A host move (R38, R380). -/
inductive HostMove where
  | reset
  | set (r : HostReg) (v : Nat)
  | poke (a : Addr) (v : Byte)
  | bus (b : Nat)
deriving DecidableEq, Repr

/-- What a host move does. -/
def HostMove.apply : HostMove → State → State
  | .reset, s => s.coreReset
  | .set r v, s => hostSet r v s
  | .poke a v, s => hostPoke a v s
  | .bus b, s => hostBus b s

end Sys2Proof.Machine
end

