-- ==== Sys2Proof/Machine/Run.lean ====
section
/-! DEFINITION. Run: a run of steps as its host makes it, and what ends it (48_execution_engine.md R378, R379). -/

namespace Sys2Proof.Machine

/-- Whether the last outcome was `Halted` (R372). -/
def StepReport.isHalted : StepReport → Bool
  | .halted _ _ _ => true
  | _ => false

/-- How a run stands after at most so many steps (R379). -/
inductive RunEnd where
  | running (s : State)                    -- the step count is used up
  | halted (s : State)                     -- a `Halted` outcome ended the run (R378)
  | stuck (r : Fault) (s : State)          -- `InvalidOpcode`: the state is the one before the step (R379)
  | refused (r : Refusal) (s : State)      -- the model has no meaning for the step
deriving DecidableEq, Repr

/-- At most `k` steps, ended by `Halted` unless HOST_RESUMES_HALT, by a fault or by a refusal. -/
def runHost : Nat → State → RunEnd
  | 0, s => .running s
  | k + 1, s =>
    match step s with
    | .next t => if t.last.isHalted && !t.cfg.hostResumesHalt then .halted t else runHost k t
    | .fault r => .stuck r s
    | .refused r => .refused r s

end Sys2Proof.Machine
end

