-- ==== Sys2Proof/Safety.lean ====
section
/-! DEFINITION. Safety: the words the statements are written in: the invariants of a state, what an instruction leaves
unchanged, the operand forms of the instruction families, and which instructions write what (10_state.md R27, R31). -/

namespace Sys2Proof.Machine

/-! ### Invariants -/

/-- R26: "F's low nibble is always 0." -/
def State.flagNibbleZero (s : State) : Prop := s.f &&& 0x0F = 0

/-- FlatBus is in canonical form (the model's own invariant, log entry 2). -/
def State.memCanonical (s : State) : Prop := s.mem.wf = true

/-- Both invariants of a state. -/
def State.Inv (s : State) : Prop := s.flagNibbleZero ∧ s.memCanonical

/-! ### Frames -/

/-- Every 8-bit register but those listed holds what it held. -/
def SameR8Except (rs : List R8) (s t : State) : Prop := ∀ r, r ∉ rs → t.getR8 r = s.getR8 r

/-- Every byte of memory but those at the listed addresses reads as before. -/
def SameMemoryExcept (as : List Addr) (s t : State) : Prop :=
  ∀ a, a ∉ as → t.mem.read a.toNat = s.mem.read a.toNat

/-- The parameters and the `written` marks are as before. -/
def SameConfig (s t : State) : Prop := t.cfg = s.cfg ∧ t.written = s.written

/-- PC, SP and IME are as before. (PC as a meaning sees it is past the instruction's bytes.) -/
def SameControl (s t : State) : Prop := t.pc = s.pc ∧ t.sp = s.sp ∧ t.ime = s.ime

/-- The outcome is `Retired(m, T_PER_M * m)` (R372, R374). -/
def Retired (m : Nat) (s t : State) : Prop := t.last = .retired m (s.cfg.tPerM * m)

/-- The bus accesses made, in order, after those already recorded (R70). -/
def Accessed (l : List Access) (s t : State) : Prop := t.accesses = s.accesses ++ l

/-- On FlatBus in canonical form the byte at `a` is now `v`. -/
def Stored (a : Addr) (v : Byte) (s t : State) : Prop :=
  s.cfg.bus = .flat → s.memCanonical → t.mem.read a.toNat = v

/-! ### The bus (R61 to R64) -/

/-- All the model holds of what is behind the bus: FlatBus's bytes, and the state of an external bus. -/
def State.behindBus (s : State) : Memory × Nat := (s.mem, s.busState)

/-- What a bus answers to a read. -/
def busAnswer (k : BusKind) (b : Memory × Nat) (a : Addr) : Byte :=
  match k with
  | .flat => b.1.read a.toNat
  | .external => (Config.busRead b.2 a).1

/-- What is behind a bus after one access: a read changes nothing of FlatBus, a write replaces one byte of it; an external
bus goes where its own `read` or `write` takes it. -/
def busAfter (k : BusKind) (b : Memory × Nat) (x : Access) : Memory × Nat :=
  match k, x.kind with
  | .flat, .read => b
  | .flat, .write => (b.1.write x.addr.toNat x.byte, b.2)
  | .external, .read => (b.1, (Config.busRead b.2 x.addr).2)
  | .external, .write => (b.1, Config.busWrite b.2 x.addr x.byte)

/-- The bus took the listed accesses one after the other, and no other: each byte recorded for a read is the one the bus
answered then, and they lead from `b` to `c`. -/
def BusTook (k : BusKind) (b : Memory × Nat) (l : List Access) (c : Memory × Nat) : Prop :=
  match l with
  | [] => c = b
  | x :: l => (x.kind = .read → x.byte = busAnswer k b x.addr) ∧ BusTook k (busAfter k b x) l c

/-- What is behind the bus moved from `s` to `t` by the accesses newly recorded in `t`, and by nothing else. -/
def BusFollows (s t : State) : Prop :=
  ∃ l, Accessed l s t ∧ BusTook s.cfg.bus s.behindBus l t.behindBus

/-! ### The host's accessors (R37) -/

/-- The fields of R20 behind an accessor: a pair's two halves, and otherwise the field itself (R22). -/
def HostReg.fields : HostReg → List HostReg
  | .af => [.a, .f]
  | .bc => [.b, .c]
  | .de => [.d, .e]
  | .hl => [.h, .l]
  | .a => [.a]
  | .b => [.b]
  | .c => [.c]
  | .d => [.d]
  | .e => [.e]
  | .h => [.h]
  | .l => [.l]
  | .f => [.f]
  | .pc => [.pc]
  | .sp => [.sp]
  | .ime => [.ime]

/-! ### Two answers compared -/

/-- Two answers that differ in the IME of the next state at most. -/
def EqualButIme : Result → Result → Prop
  | .next t, .next u => { u with ime := t.ime } = t
  | .fault r, .fault q => r = q
  | .refused r, .refused q => r = q
  | _, _ => False

/-! ### Operand forms -/

/-- The source operand of an 8-bit ALU instruction: a register, the byte at HL, or an immediate. -/
inductive Src where
  | reg (r : R8)
  | atHL
  | imm (d : Byte)
deriving DecidableEq, Repr

/-- The operand's value. -/
def Src.value (s : State) : Src → Byte
  | .reg r => s.getR8 r
  | .atHL => s.busValue s.hl
  | .imm d => d

/-- The bus accesses the operand makes after the fetch. -/
def Src.accesses (s : State) : Src → List Access
  | .reg _ => []
  | .atHL => [⟨.read, s.hl, s.busValue s.hl⟩]
  | .imm _ => []

/-- The machine cycles of an ALU instruction with that operand (R436). -/
def Src.cycles : Src → Nat
  | .reg _ => 1
  | .atHL => 2
  | .imm _ => 2

/-- The instruction of a family that has the operand. -/
def Src.form (onReg : R8 → Instr) (onHL : Instr) (onImm : Byte → Instr) : Src → Instr
  | .reg r => onReg r
  | .atHL => onHL
  | .imm d => onImm d

/-- The ADD, ADC, SUB, SBC, AND, XOR, OR and CP forms. -/
def addForm : Src → Instr := Src.form .addAR .addAAtHL .addAD8
def adcForm : Src → Instr := Src.form .adcAR .adcAAtHL .adcAD8
def subForm : Src → Instr := Src.form .subR .subAtHL .subD8
def sbcForm : Src → Instr := Src.form .sbcAR .sbcAAtHL .sbcAD8
def andForm : Src → Instr := Src.form .andR .andAtHL .andD8
def xorForm : Src → Instr := Src.form .xorR .xorAtHL .xorD8
def orForm : Src → Instr := Src.form .orR .orAtHL .orD8
def cpForm : Src → Instr := Src.form .cpR .cpAtHL .cpD8

/-- The place a read-modify-write instruction works on: a register or the byte at HL. -/
inductive Place where
  | reg (r : R8)
  | atHL
deriving DecidableEq, Repr

/-- The value found there. -/
def Place.value (s : State) : Place → Byte
  | .reg r => s.getR8 r
  | .atHL => s.busValue s.hl

/-- The place holds `v` afterwards, every other register and byte is as before, and the byte at HL was read once and
written once. -/
def Place.Updated (p : Place) (v : Byte) (s t : State) : Prop :=
  match p with
  | .reg r => t.getR8 r = v ∧ SameR8Except [r] s t ∧ SameMemoryExcept [] s t ∧ Accessed [] s t
  | .atHL =>
    Stored s.hl v s t ∧ SameR8Except [] s t ∧ SameMemoryExcept [s.hl] s t ∧
      Accessed [⟨.read, s.hl, s.busValue s.hl⟩, ⟨.write, s.hl, v⟩] s t

/-- The machine cycles by place. -/
def Place.cycles (onReg onHL : Nat) : Place → Nat
  | .reg _ => onReg
  | .atHL => onHL

/-- The instruction of a family that works on the place. -/
def Place.form (onReg : R8 → Instr) (onHL : Instr) : Place → Instr
  | .reg r => onReg r
  | .atHL => onHL

/-- The condition table (R93, R320) on the two flags. -/
def condHolds (cc : CC) (z c : Bool) : Bool :=
  match cc with
  | .nz => !z
  | .z => z
  | .nc => !c
  | .c => c

/-- The eight rotates and shifts of the secondary table (R93). -/
inductive ShiftOp where
  | rlc | rrc | rl | rr | sla | sra | swap | srl
deriving DecidableEq, Repr

/-- Their instructions. -/
def ShiftOp.form : ShiftOp → Place → Instr
  | .rlc => Place.form .rlcR .rlcAtHL
  | .rrc => Place.form .rrcR .rrcAtHL
  | .rl => Place.form .rlR .rlAtHL
  | .rr => Place.form .rrR .rrAtHL
  | .sla => Place.form .slaR .slaAtHL
  | .sra => Place.form .sraR .sraAtHL
  | .swap => Place.form .swapR .swapAtHL
  | .srl => Place.form .srlR .srlAtHL

/-- Bit `i` of the result, from the bits of the old value and the old carry (R135). -/
def ShiftOp.newBit (v : Byte) (cin : Bool) (i : Nat) : ShiftOp → Bool
  | .rlc => if i = 0 then v.getLsbD 7 else v.getLsbD (i - 1)
  | .rrc => if i = 7 then v.getLsbD 0 else v.getLsbD (i + 1)
  | .rl => if i = 0 then cin else v.getLsbD (i - 1)
  | .rr => if i = 7 then cin else v.getLsbD (i + 1)
  | .sla => if i = 0 then false else v.getLsbD (i - 1)
  | .sra => if i = 7 then v.getLsbD 7 else v.getLsbD (i + 1)
  | .swap => v.getLsbD ((i + 4) % 8)
  | .srl => if i = 7 then false else v.getLsbD (i + 1)

/-- The bit shifted out (R135). -/
def ShiftOp.bitOut (v : Byte) : ShiftOp → Bool
  | .rlc => v.getLsbD 7
  | .rl => v.getLsbD 7
  | .sla => v.getLsbD 7
  | .swap => false
  | .rrc => v.getLsbD 0
  | .rr => v.getLsbD 0
  | .sra => v.getLsbD 0
  | .srl => v.getLsbD 0

/-! ### Byte order and the small families -/

/-- The two bytes of a word, the one at the lower address first (R67, R300). -/
def inAddressOrder (bo : ByteOrder) (v : Word) : Byte × Byte :=
  if bo = .le then (loByte v, hiByte v) else (hiByte v, loByte v)

/-- The word of two bytes, the one at the lower address first (R66, R301). -/
def wordOf (bo : ByteOrder) (b0 b1 : Byte) : Nat :=
  if bo = .le then b1.toNat * 256 + b0.toNat else b0.toNat * 256 + b1.toNat

/-- The accumulator rotates (R220 to R223). -/
def accRotates : List (ShiftOp × Instr) := [(.rlc, .rlca), (.rrc, .rrca), (.rl, .rla), (.rr, .rra)]

/-- The loads of A through an address, with the address and the machine cycles (R265, R266, R273, R277, R279). -/
def accLoads (s : State) (a16 : Addr) (a8 : Byte) : List (Instr × Addr × Nat) :=
  [(.ldAAtBC, s.bc, 2), (.ldAAtDE, s.de, 2), (.ldAAtA16 a16, a16, 4),
    (.ldhAAtA8 a8, BitVec.ofNat 16 (0xFF00 + a8.toNat), 3), (.ldAAtC, BitVec.ofNat 16 (0xFF00 + s.c.toNat), 2)]

/-- The stores of A (R267, R268, R274, R276, R278). -/
def accStores (s : State) (a16 : Addr) (a8 : Byte) : List (Instr × Addr × Nat) :=
  [(.ldAtBCA, s.bc, 2), (.ldAtDEA, s.de, 2), (.ldAtA16A a16, a16, 4),
    (.ldhAtA8A a8, BitVec.ofNat 16 (0xFF00 + a8.toNat), 3), (.ldAtCA, BitVec.ofNat 16 (0xFF00 + s.c.toNat), 2)]

/-- The unconditional jumps, with target and machine cycles (R321, R323, R324). -/
def jumps (s : State) (a : Addr) (e : Byte) : List (Instr × Addr × Nat) :=
  [(.jpA16 a, a, 4), (.jpHL, s.hl, 1), (.jrE8 e, BitVec.ofInt 16 (s.pc.toNat + e.toInt), 3)]

/-- The conditional jumps, with target and machine cycles taken and not taken (R322, R325). -/
def condJumps (s : State) (cc : CC) (a : Addr) (e : Byte) : List (Instr × Addr × Nat × Nat) :=
  [(.jpCcA16 cc a, a, 4, 3), (.jrCcE8 cc e, BitVec.ofInt 16 (s.pc.toNat + e.toInt), 3, 2)]

/-- CALL a16 and RST t, with target and machine cycles (R326, R331). -/
def calls (a : Addr) (y : RST) : List (Instr × Addr × Nat) :=
  [(.callA16 a, a, 6), (.rstT y, BitVec.ofNat 16 (y.val * 8), 4)]

/-- RET and RETI, with the IME they leave (R328, R330). -/
def returns (s : State) : List (Instr × Bool) := [(.ret, s.ime), (.reti, true)]

/-- The invalid table entries with their bytes (R104, R356). -/
def invalidEntries : List (Instr × Byte) :=
  [(.invalidD3, 0xD3), (.invalidDB, 0xDB), (.invalidDD, 0xDD), (.invalidE3, 0xE3), (.invalidE4, 0xE4),
    (.invalidEB, 0xEB), (.invalidEC, 0xEC), (.invalidED, 0xED), (.invalidF4, 0xF4), (.invalidFC, 0xFC),
    (.invalidFD, 0xFD)]

/-! ### Which instructions write what -/

end Sys2Proof.Machine

namespace Sys2Proof

/-- The instructions that may make a bus write (R65): stores, read-modify-writes on (HL), pushes, calls, restarts. -/
def Instr.mayStore : Instr → Bool
  | .ldAtA16SP _ | .ldAtBCA | .ldAtDEA | .ldAtHLIncA | .ldAtHLDecA | .incAtHL | .decAtHL | .ldAtHLD8 _
  | .ldAtHLR _ | .ldhAtA8A _ | .ldAtCA | .ldAtA16A _ | .callCcA16 _ _ | .pushRr _ | .callA16 _ | .rstT _
  | .rlcAtHL | .rrcAtHL | .rlAtHL | .rrAtHL | .slaAtHL | .sraAtHL | .swapAtHL | .srlAtHL
  | .resBAtHL _ | .setBAtHL _ | .prefixCB => true
  | _ => false

/-- The instructions of the last row of R27, which write no flag, with INC rr, DEC rr, RES and SET. -/
def Instr.leavesFlags : Instr → Bool
  | .nop | .halt | .stop _ | .di | .ei
  | .jrE8 _ | .jrCcE8 _ _ | .jpHL | .jpA16 _ | .jpCcA16 _ _
  | .callA16 _ | .callCcA16 _ _ | .ret | .retCc _ | .reti | .rstT _
  | .pushRr _ | .popRr .bc | .popRr .de | .popRr .hl
  | .ldRrD16 _ _ | .ldAtA16SP _ | .ldSPHL | .incRr _ | .decRr _
  | .ldRR _ _ | .ldRAtHL _ | .ldAtHLR _ | .ldRD8 _ _ | .ldAtHLD8 _
  | .ldAAtBC | .ldAAtDE | .ldAtBCA | .ldAtDEA | .ldAAtHLInc | .ldAAtHLDec | .ldAtHLIncA | .ldAtHLDecA
  | .ldAAtA16 _ | .ldAtA16A _ | .ldhAtA8A _ | .ldhAAtA8 _ | .ldAtCA | .ldAAtC
  | .resBR _ _ | .resBAtHL _ | .setBR _ _ | .setBAtHL _ => true
  | _ => false

/-- Jumps, calls, returns and restarts (46_control_transfer.md). -/
def Instr.isTransfer : Instr → Bool
  | .jrE8 _ | .jrCcE8 _ _ | .jpHL | .jpA16 _ | .jpCcA16 _ _
  | .callA16 _ | .callCcA16 _ _ | .ret | .retCc _ | .reti | .rstT _ => true
  | _ => false

/-- The table entries of the invalid bytes. -/
def Instr.isInvalid : Instr → Bool
  | .invalidD3 | .invalidDB | .invalidDD | .invalidE3 | .invalidE4 | .invalidEB | .invalidEC | .invalidED
  | .invalidF4 | .invalidFC | .invalidFD => true
  | _ => false

end Sys2Proof

namespace Sys2Proof.Machine

/-- The eleven invalid bytes (R104). -/
def invalidBytes : List Byte := [0xD3, 0xDB, 0xDD, 0xE3, 0xE4, 0xEB, 0xEC, 0xED, 0xF4, 0xFC, 0xFD]

/-! ### A step's instruction -/

/-- The state of an external bus after `k` reads from PC upward. -/
def State.fetchBus (s : State) : Nat → Nat
  | 0 => s.busState
  | k + 1 => { s with busState := s.fetchBus k }.busAfterRead (s.pc + BitVec.ofNat 16 k)

/-- The `k`-th byte the bus answers to the reads of a fetch at PC. -/
def State.fetchByte (s : State) (k : Nat) : Byte :=
  { s with busState := s.fetchBus k }.busValue (s.pc + BitVec.ofNat 16 k)

/-- The state after a fetch of `n` bytes from PC, the record of accesses begun anew. -/
def State.afterFetch (s : State) (n : Nat) : State :=
  { s with
    pc := s.pc + BitVec.ofNat 16 n
    accesses := (List.range n).map fun k => ⟨.read, s.pc + BitVec.ofNat 16 k, s.fetchByte k⟩
    busState := s.fetchBus n }

/-- The instruction the next step runs. -/
def State.nextInstr (s : State) : Instr := s.beginStep.fetchInstr.1

end Sys2Proof.Machine
end

