-- ==== Sys2Proof/Certificates/Slice0/Obligations.lean ====
section
/-! DEFINITION. The statements for the provers. Each docstring names the rules of spec/ it formalises. A statement about
`exec` speaks of the state after the instruction's bytes, its operand bytes among them, have been fetched, so its PC is
past them (R371; log entry 7); what the fetch does is `StepRunsTheDecodedInstruction`. Where a rule rests on one of the
spec's own decisions D<n> (92_eei_decisions.md), the docstring names it. Every machine-cycle count in a `Retired` but
that of LD BC,d16 is the rule's, marked general knowledge by R436 (D1, D9, D10). -/

open Sys2Proof Sys2Proof.Machine

/-! ### Reset, the host, the state before reset -/

/-- R36, R430: what `reset()` leaves, whatever the state before; it makes no bus access, so what is behind the bus, FlatBus's
bytes and an external bus's state alike, is not touched, nor are the parameters; the state the model calls `State.reset`
holds those values too. -/
def Obligations.ResetLeavesTheDocumentedDefaults : Prop :=
  (∀ s : State,
    (s.coreReset.a = 0 ∧ s.coreReset.b = 0 ∧ s.coreReset.c = 0 ∧ s.coreReset.d = 0 ∧ s.coreReset.e = 0 ∧
      s.coreReset.h = 0 ∧ s.coreReset.l = 0 ∧ s.coreReset.f = 0) ∧
    (s.coreReset.af = 0 ∧ s.coreReset.bc = 0 ∧ s.coreReset.de = 0 ∧ s.coreReset.hl = 0) ∧
    (s.coreReset.flagZ = false ∧ s.coreReset.flagN = false ∧ s.coreReset.flagH = false ∧ s.coreReset.flagC = false) ∧
    s.coreReset.pc = 0x0000 ∧ s.coreReset.sp = 0x0000 ∧ s.coreReset.ime = true ∧
    s.coreReset.written = Written.all ∧ s.coreReset.mem = s.mem ∧ s.coreReset.busState = s.busState ∧
    s.coreReset.cfg = s.cfg) ∧
  (State.reset.a = 0 ∧ State.reset.b = 0 ∧ State.reset.c = 0 ∧ State.reset.d = 0 ∧ State.reset.e = 0 ∧
    State.reset.h = 0 ∧ State.reset.l = 0 ∧ State.reset.f = 0 ∧ State.reset.pc = 0x0000 ∧ State.reset.sp = 0x0000 ∧
    State.reset.ime = true)

/-- R35, R432: a step is refused until every field has been written; a get of an unwritten field is a fault; a set
defines the fields it writes; the core as created has no field written. The decision is the spec's D11; the `written`
marks are log entry 5. -/
def Obligations.NothingRunsBeforeEveryFieldIsWritten : Prop :=
  (∀ s : State, s.written ≠ Written.all → step s = .refused .beforeReset) ∧
  (∀ (s : State) (r : HostReg), s.written.has r = false → hostGet r s = .error (.unwrittenField r)) ∧
  (∀ (s : State) (r : HostReg) (v : Nat), (hostSet r v s).written.has r = true) ∧
  (∀ r : HostReg, hostGet r State.created = .error (.unwrittenField r)) ∧
  (∀ s : State, s.coreReset.written = Written.all)

/-- R37: a get after a set of the same name answers the value truncated to the field's width, the low nibble of F
cleared. R23, R35: an accessor that shares no field with the one set keeps its value and its mark, and a set touches
neither what is behind the bus, nor the parameters, nor the model's records of the last step. -/
def Obligations.HostGetAfterSetAnswersTheTruncatedValue : Prop :=
  ∀ (s : State) (r : HostReg) (v : Nat),
    hostGet r (hostSet r v s) = .ok
      (match r with
        | .a | .b | .c | .d | .e | .h | .l => v % 256
        | .f => v % 256 / 16 * 16
        | .af => v % 65536 / 16 * 16
        | .bc | .de | .hl | .pc | .sp => v % 65536
        | .ime => v % 2) ∧
    (∀ q : HostReg, (∀ x ∈ q.fields, x ∉ r.fields) →
      (hostSet r v s).hostValue q = s.hostValue q ∧ (hostSet r v s).written.has q = s.written.has q ∧
      hostGet q (hostSet r v s) = hostGet q s) ∧
    (hostSet r v s).behindBus = s.behindBus ∧ (hostSet r v s).cfg = s.cfg ∧
    (hostSet r v s).last = s.last ∧ (hostSet r v s).accesses = s.accesses

/-- R22, R23, R24: each pair view is `high * 256 + low`; writing a pair writes both halves; writing one half leaves the
other. -/
def Obligations.PairViewsAliasTheirHalves : Prop :=
  ∀ (s : State),
    (s.af.toNat = s.a.toNat * 256 + s.f.toNat ∧ s.bc.toNat = s.b.toNat * 256 + s.c.toNat ∧
      s.de.toNat = s.d.toNat * 256 + s.e.toNat ∧ s.hl.toNat = s.h.toNat * 256 + s.l.toNat) ∧
    (∀ v : Word,
      (s.setBC v).b.toNat = v.toNat / 256 ∧ (s.setBC v).c.toNat = v.toNat % 256 ∧ (s.setBC v).bc = v ∧
      (s.setDE v).d.toNat = v.toNat / 256 ∧ (s.setDE v).e.toNat = v.toNat % 256 ∧ (s.setDE v).de = v ∧
      (s.setHL v).h.toNat = v.toNat / 256 ∧ (s.setHL v).l.toNat = v.toNat % 256 ∧ (s.setHL v).hl = v ∧
      (s.setAF v).a.toNat = v.toNat / 256 ∧ (s.setAF v).f.toNat = v.toNat % 256 / 16 * 16) ∧
    (∀ x y : Byte,
      ((s.setR8 .b x).setR8 .c y).bc.toNat = x.toNat * 256 + y.toNat ∧
      ((s.setR8 .c y).setR8 .b x).bc.toNat = x.toNat * 256 + y.toNat ∧
      (s.setR8 .b x).c = s.c ∧ (s.setR8 .c x).b = s.b ∧
      ((s.setR8 .d x).setR8 .e y).de.toNat = x.toNat * 256 + y.toNat ∧
      ((s.setR8 .e y).setR8 .d x).de.toNat = x.toNat * 256 + y.toNat ∧
      (s.setR8 .d x).e = s.e ∧ (s.setR8 .e x).d = s.d ∧
      ((s.setR8 .h x).setR8 .l y).hl.toNat = x.toNat * 256 + y.toNat ∧
      ((s.setR8 .l y).setR8 .h x).hl.toNat = x.toNat * 256 + y.toNat ∧
      (s.setR8 .h x).l = s.l ∧ (s.setR8 .l x).h = s.h ∧
      (s.setR8 .a x).f = s.f ∧ (s.setF x).a = s.a ∧
      ((s.setR8 .a x).setF y).af.toNat = x.toNat * 256 + y.toNat / 16 * 16 ∧
      ((s.setF y).setR8 .a x).af.toNat = x.toNat * 256 + y.toNat / 16 * 16)

/-! ### Invariants -/

/-- R26 and the model's own memory form (log entry 2): the state after reset meets both invariants. So does the core as
created, where R35 gives F no value: that clause speaks of the placeholder 0 of log entry 5 and is the model's choice.
-/
def Obligations.InvariantsHoldAtReset : Prop := State.reset.Inv ∧ State.created.Inv

/-- R26: every write to F stores `v & 0xF0`, a write of AF sets A and the masked F, and F's low nibble stays 0 through
every step and every host move. -/
def Obligations.LowNibbleOfFlagsStaysZero : Prop :=
  (∀ (s : State) (v : Byte), (s.setF v).f = v &&& 0xF0) ∧
  (∀ (s : State) (v : Word), (s.setAF v).a = hiByte v ∧ (s.setAF v).f = loByte v &&& 0xF0) ∧
  (∀ s t : State, s.flagNibbleZero → step s = .next t → t.flagNibbleZero) ∧
  (∀ (s : State) (m : HostMove), s.flagNibbleZero → (m.apply s).flagNibbleZero)

/-- The model's own (log entry 2): FlatBus stays in its canonical form through every step, every host move and the
placing of a table word. -/
def Obligations.FlatBusStaysCanonical : Prop :=
  (∀ s t : State, s.memCanonical → step s = .next t → t.memCanonical) ∧
  (∀ (s : State) (m : HostMove), s.memCanonical → (m.apply s).memCanonical) ∧
  (∀ (s : State) (nbits w : Nat), s.memCanonical → (s.withFetchWord nbits w).memCanonical)

/-! ### Encoding -/

/-- R98 to R102, R96: decoding the bytes of a well-formed instruction gives it back, with every operand at every value
the encoding admits, under either byte order, and leaves the bytes after it. -/
def Obligations.DecodeOfEncodeIsTheInstruction : Prop :=
  ∀ (bo : ByteOrder) (i : Instr) (rest : List Byte), i.wellFormed = true → decode bo (encode bo i ++ rest) = .ok (i, rest)

/-- R90, R104, R106: whatever the bytes, they decode to one well-formed table entry whose own bytes are exactly those
consumed (so no two rows share a byte sequence), and whose length, 1 to 3, is that of the first byte. -/
def Obligations.EncodeOfDecodeIsTheBytes : Prop :=
  ∀ (bo : ByteOrder) (op x y : Byte),
    encode bo (decodeInstr bo op x y) = [op, x, y].take (lengthOfOpcode op) ∧
    (decodeInstr bo op x y).wellFormed = true ∧
    (decodeInstr bo op x y).length = lengthOfOpcode op ∧
    1 ≤ lengthOfOpcode op ∧ lengthOfOpcode op ≤ 3

/-- R104, R102: the first byte is an invalid entry exactly for the eleven bytes; no byte after 0xCB is invalid. -/
def Obligations.InvalidEntriesAreExactlyTheElevenBytes : Prop :=
  (∀ (bo : ByteOrder) (op x y : Byte), (decodeInstr bo op x y).isInvalid = true ↔ op ∈ invalidBytes) ∧
  (∀ op : Byte, (decodeSecondary op).isInvalid = false ∧ tierOf (decodeSecondary op) ≠ none)

/-- R92, R93, R98 to R102: words written out from the encoding tables, one or more of each quadrant and of the secondary
table. -/
def Obligations.SampleWordsDecodeToTheirInstructions : Prop :=
  decode .le [0x01, 0x01, 0x02] = .ok (.ldRrD16 .bc 0x0201, []) ∧
  decode .be [0x01, 0x01, 0x02] = .ok (.ldRrD16 .bc 0x0102, []) ∧
  decode .le [0x20, 0xFC] = .ok (.jrCcE8 .nz 0xFC, []) ∧
  decode .le [0x66] = .ok (.ldRAtHL .h, []) ∧
  decode .le [0x76] = .ok (.halt, []) ∧
  decode .le [0x9C] = .ok (.sbcAR .h, []) ∧
  decode .le [0xF5] = .ok (.pushRr .af, []) ∧
  decode .le [0xEF] = .ok (.rstT 5, []) ∧
  decode .le [0xD3] = .ok (.invalidD3, []) ∧
  decode .le [0xCB, 0xCB] = .ok (.setBR 1 .e, []) ∧
  decode .le [0xCB, 0x46] = .ok (.bitBAtHL 0, []) ∧
  decode .le [0xCB] = .error (.truncated 0xCB)

/-! ### The step -/

/-- R371: once every field is written, where the bytes the bus answers at PC decode to `i` and `ADMIT` admits `i`, a
step is `exec i` on the state with those bytes fetched: PC past them, one bus read recorded for each. That `step`
fetches the operand bytes before `exec` is log entry 7. -/
def Obligations.StepRunsTheDecodedInstruction : Prop :=
  ∀ (s : State) (i : Instr) (rest : List Byte),
    s.written = Written.all →
    decode s.cfg.byteOrder [s.fetchByte 0, s.fetchByte 1, s.fetchByte 2] = .ok (i, rest) →
    admits s.cfg.admission (tierOf i) = true →
    step s = exec i (s.afterFetch i.length)

/-- R28, R371: after a step whose instruction is no control transfer, PC is the instruction's address plus its length,
modulo 65536. The spec's decision D3. -/
def Obligations.StepAdvancesPcByTheLength : Prop :=
  ∀ s t : State, step s = .next t → s.nextInstr.isTransfer = false →
    t.pc = s.pc + BitVec.ofNat 16 s.nextInstr.length

/-- R107 (D19): `Full` admits every instruction, `SourceNamed` refuses by name exactly tier G, `SourceSettled` tiers SG
and G; an admitted instruction runs as under `Full`. -/
def Obligations.AdmissionRefusesExactlyTheTiersAbove : Prop :=
  ∀ s : State, s.written = Written.all →
    (s.cfg.admission = .full → step s = exec s.nextInstr s.beginStep.fetchInstr.2) ∧
    (s.cfg.admission = .sourceNamed →
      (tierOf s.nextInstr = some .g → step s = .refused (.notAdmitted s.nextInstr)) ∧
      (tierOf s.nextInstr = some .s ∨ tierOf s.nextInstr = some .sg → step s = exec s.nextInstr s.beginStep.fetchInstr.2)) ∧
    (s.cfg.admission = .sourceSettled →
      (tierOf s.nextInstr = some .g ∨ tierOf s.nextInstr = some .sg → step s = .refused (.notAdmitted s.nextInstr)) ∧
      (tierOf s.nextInstr = some .s → step s = exec s.nextInstr s.beginStep.fetchInstr.2))

/-- R377, with R104, R371 and R400 for the other direction: once every field is written and every tier is admitted, a
step completes whatever the registers, the flags, the address and the bytes the bus answers, and it answers no next
state on the eleven invalid bytes. That an invalid byte leaves the state before the step is the spec's decision D4, and
that this is a fault log entry 6. -/
def Obligations.StepCompletesExactlyOffTheInvalidBytes : Prop :=
  ∀ s : State, s.written = Written.all → s.cfg.admission = .full →
    ((∃ t, step s = .next t) ↔ s.fetchByte 0 ∉ invalidBytes)

/-- R400, R401 (D4; log entries 6 and 10): a step whose first byte has no dispatch entry is `InvalidOpcode(primary, byte, addr)`, `addr` being the
address the byte was fetched from, under every `ADMIT`. -/
def Obligations.StepOnAnInvalidByteIsInvalidOpcode : Prop :=
  ∀ s : State, s.written = Written.all → s.fetchByte 0 ∈ invalidBytes →
    step s = .fault (.invalidOpcode .primary (s.fetchByte 0) s.pc)

/-- R372, R374: a completed step reports `Halted` for HALT and STOP and `Retired` for every other instruction, with T =
T_PER_M * M. The spec's decisions D7, D9, D10; `last` is log entry 4. -/
def Obligations.OutcomeIsHaltedExactlyForHaltAndStop : Prop :=
  ∀ s t : State, step s = .next t →
    match s.nextInstr with
    | .halt => t.last = .halted .halt 1 (s.cfg.tPerM * 1)
    | .stop _ => t.last = .halted .stop 1 (s.cfg.tPerM * 1)
    | _ => ∃ m, t.last = .retired m (s.cfg.tPerM * m)

/-- R436 (last paragraph): a completed step makes at most as many bus accesses as it has machine cycles, but for STOP,
which makes 2 and is given 1. Marked derived by the spec; `accesses` is log entry 4. -/
def Obligations.MachineCyclesBoundTheBusAccesses : Prop :=
  ∀ s t : State, step s = .next t →
    match s.nextInstr with
    | .stop _ => t.accesses.length = 2 ∧ t.last = .halted .stop 1 (s.cfg.tPerM * 1)
    | .halt => t.accesses.length ≤ 1 ∧ t.last = .halted .halt 1 (s.cfg.tPerM * 1)
    | _ => ∃ m, t.last = .retired m (s.cfg.tPerM * m) ∧ t.accesses.length ≤ m

/-- R33, R375: nothing of the last outcome is kept: a step does not depend on `last` (no halted latch) nor on the record
of accesses. -/
def Obligations.StepDependsOnNoEarlierOutcome : Prop :=
  ∀ (s : State) (r : StepReport) (l : List Access), step { s with last := r, accesses := l } = step s

/-! ### Whole-machine rules -/

/-- R31: no step changes IME but those of EI and RETI, which set it, and DI, which clears it. -/
def Obligations.OnlyDiEiAndRetiWriteIme : Prop :=
  ∀ s t : State, step s = .next t →
    match s.nextInstr with
    | .di => t.ime = false
    | .ei => t.ime = true
    | .reti => t.ime = true
    | _ => t.ime = s.ime

/-- R31: "No rule of the core reads IME": two states that differ in IME alone take steps that differ in IME alone. -/
def Obligations.NoInstructionReadsIme : Prop :=
  ∀ (s : State) (b : Bool), EqualButIme (step s) (step { s with ime := b })

/-- R65, R70: only the storing forms write memory; every other instruction leaves every byte. -/
def Obligations.OnlyStoringFormsChangeMemory : Prop :=
  ∀ (i : Instr) (s t : State), i.mayStore = false → exec i s = .next t →
    SameMemoryExcept [] s t ∧ ∀ x ∈ t.accesses, x ∈ s.accesses ∨ x.kind = .read

/-- R27: the instructions of the rows "-" leave F whole, and none of them writes a parameter. -/
def Obligations.FlaglessInstructionsLeaveFlags : Prop :=
  ∀ (i : Instr) (s t : State), i.leavesFlags = true → exec i s = .next t → t.f = s.f ∧ SameConfig s t

/-! ### 8-bit arithmetic and logic (41_alu8.md) -/

/-- R150 to R155: ADD and ADC with each operand form: the sum truncated, the three flags from the sum before truncation,
the old F.C as ADC's carry-in, everything else unchanged. -/
def Obligations.AddAndAdcGiveSumAndFlags : Prop :=
  ∀ (s : State) (x : Src),
    (∃ t, exec (addForm x) s = .next t ∧
      t.a = BitVec.ofNat 8 (s.a.toNat + (x.value s).toNat) ∧
      t.f = packFlags (decide ((s.a.toNat + (x.value s).toNat) % 256 = 0)) false
        (decide (s.a.toNat % 16 + (x.value s).toNat % 16 > 0xF)) (decide (s.a.toNat + (x.value s).toNat > 0xFF)) ∧
      SameR8Except [.a] s t ∧ SameMemoryExcept [] s t ∧ SameControl s t ∧ SameConfig s t ∧
      Accessed (x.accesses s) s t ∧ Retired x.cycles s t) ∧
    (∃ t, exec (adcForm x) s = .next t ∧
      t.a = BitVec.ofNat 8 (s.a.toNat + (x.value s).toNat + s.flagC.toNat) ∧
      t.f = packFlags (decide ((s.a.toNat + (x.value s).toNat + s.flagC.toNat) % 256 = 0)) false
        (decide (s.a.toNat % 16 + (x.value s).toNat % 16 + s.flagC.toNat > 0xF))
        (decide (s.a.toNat + (x.value s).toNat + s.flagC.toNat > 0xFF)) ∧
      SameR8Except [.a] s t ∧ SameMemoryExcept [] s t ∧ SameControl s t ∧ SameConfig s t ∧
      Accessed (x.accesses s) s t ∧ Retired x.cycles s t)

/-- R156 to R158: SUB with each operand form: the difference modulo 256 and the borrow flags. -/
def Obligations.SubGivesDifferenceAndBorrows : Prop :=
  ∀ (s : State) (x : Src),
    ∃ t, exec (subForm x) s = .next t ∧
      (t.a.toNat : Int) = ((s.a.toNat : Int) - (x.value s).toNat) % 256 ∧
      t.f = packFlags (decide (t.a = 0)) true (decide (s.a.toNat % 16 < (x.value s).toNat % 16))
        (decide (s.a.toNat < (x.value s).toNat)) ∧
      SameR8Except [.a] s t ∧ SameMemoryExcept [] s t ∧ SameControl s t ∧ SameConfig s t ∧
      Accessed (x.accesses s) s t ∧ Retired x.cycles s t

/-- R159 to R161 (the spec's decision D6): SBC with each operand form: the old F.C subtracted too, in the difference and
in both borrow flags. -/
def Obligations.SbcSubtractsTheBorrowToo : Prop :=
  ∀ (s : State) (x : Src),
    ∃ t, exec (sbcForm x) s = .next t ∧
      (t.a.toNat : Int) = ((s.a.toNat : Int) - (x.value s).toNat - s.flagC.toNat) % 256 ∧
      t.f = packFlags (decide (t.a = 0)) true (decide (s.a.toNat % 16 < (x.value s).toNat % 16 + s.flagC.toNat))
        (decide (s.a.toNat < (x.value s).toNat + s.flagC.toNat)) ∧
      SameR8Except [.a] s t ∧ SameMemoryExcept [] s t ∧ SameControl s t ∧ SameConfig s t ∧
      Accessed (x.accesses s) s t ∧ Retired x.cycles s t

/-- R171 to R173: CP with each operand form writes the flags of the subtraction and no register: Z iff A equals the
operand, C iff A is below it. -/
def Obligations.CpWritesFlagsOnly : Prop :=
  ∀ (s : State) (x : Src), ∃ t, exec (cpForm x) s = .next t ∧
    t.f = packFlags (decide (s.a = x.value s)) true (decide (s.a.toNat % 16 < (x.value s).toNat % 16))
      (decide (s.a.toNat < (x.value s).toNat)) ∧
    SameR8Except [] s t ∧ SameMemoryExcept [] s t ∧ SameControl s t ∧ SameConfig s t ∧
    Accessed (x.accesses s) s t ∧ Retired x.cycles s t

/-- R162 to R170: AND, XOR and OR with each operand form. The spec's decision D15. -/
def Obligations.LogicalInstructionsGiveResultAndFlags : Prop :=
  ∀ (s : State) (x : Src),
    (∃ t, exec (andForm x) s = .next t ∧ t.a = s.a &&& x.value s ∧
      t.f = packFlags (decide (s.a &&& x.value s = 0)) false true false ∧
      SameR8Except [.a] s t ∧ SameMemoryExcept [] s t ∧ SameControl s t ∧ SameConfig s t ∧
      Accessed (x.accesses s) s t ∧ Retired x.cycles s t) ∧
    (∃ t, exec (xorForm x) s = .next t ∧ t.a = s.a ^^^ x.value s ∧
      t.f = packFlags (decide (s.a ^^^ x.value s = 0)) false false false ∧
      SameR8Except [.a] s t ∧ SameMemoryExcept [] s t ∧ SameControl s t ∧ SameConfig s t ∧
      Accessed (x.accesses s) s t ∧ Retired x.cycles s t) ∧
    (∃ t, exec (orForm x) s = .next t ∧ t.a = s.a ||| x.value s ∧
      t.f = packFlags (decide (s.a ||| x.value s = 0)) false false false ∧
      SameR8Except [.a] s t ∧ SameMemoryExcept [] s t ∧ SameControl s t ∧ SameConfig s t ∧
      Accessed (x.accesses s) s t ∧ Retired x.cycles s t)

/-- R174 to R177: INC and DEC of a register or of the byte at HL: plus or minus one modulo 256, Z, N and H written, F.C
kept, the byte at HL read once and written once. -/
def Obligations.IncAndDecKeepCarry : Prop :=
  ∀ (s : State) (p : Place),
    (∃ t, exec (Place.form .incR .incAtHL p) s = .next t ∧
      p.Updated (BitVec.ofNat 8 ((p.value s).toNat + 1)) s t ∧
      t.f = packFlags (decide ((p.value s).toNat = 0xFF)) false (decide ((p.value s).toNat % 16 = 0xF)) s.flagC ∧
      SameControl s t ∧ SameConfig s t ∧ Retired (p.cycles 1 3) s t) ∧
    (∃ t, exec (Place.form .decR .decAtHL p) s = .next t ∧
      p.Updated (BitVec.ofNat 8 ((p.value s).toNat + 255)) s t ∧
      t.f = packFlags (decide ((p.value s).toNat = 1)) true (decide ((p.value s).toNat % 16 = 0)) s.flagC ∧
      SameControl s t ∧ SameConfig s t ∧ Retired (p.cycles 1 3) s t)

/-- R183, R138: DAA: after an addition the correction is added and F.C can only be set; after a subtraction it is
subtracted and F.C kept; F.N kept, F.H cleared. The spec's decision D14. -/
def Obligations.DaaAdjustsByTheRule : Prop :=
  ∀ s : State, ∃ t, exec .daa s = .next t ∧
    (s.flagN = false →
      t.a = BitVec.ofNat 8 (s.a.toNat + (if s.flagH = true ∨ s.a.toNat % 16 > 0x09 then 0x06 else 0) +
        (if s.flagC = true ∨ s.a.toNat > 0x99 then 0x60 else 0)) ∧
      t.flagC = decide (s.flagC = true ∨ s.a.toNat > 0x99)) ∧
    (s.flagN = true →
      (t.a.toNat : Int) = ((s.a.toNat : Int) - ((if s.flagH = true then 0x06 else 0) +
        (if s.flagC = true then 0x60 else 0))) % 256 ∧
      t.flagC = s.flagC) ∧
    t.flagZ = decide (t.a = 0) ∧ t.flagN = s.flagN ∧ t.flagH = false ∧ t.flagNibbleZero ∧
    SameR8Except [.a] s t ∧ SameMemoryExcept [] s t ∧ SameControl s t ∧ SameConfig s t ∧ Accessed [] s t ∧ Retired 1 s t

/-- R184, R185, R186: CPL, SCF, CCF. -/
def Obligations.CplScfAndCcf : Prop :=
  ∀ s : State,
    (∃ t, exec .cpl s = .next t ∧ t.a.toNat = 255 - s.a.toNat ∧ t.f = packFlags s.flagZ true true s.flagC ∧
      SameR8Except [.a] s t ∧ SameMemoryExcept [] s t ∧ SameControl s t ∧ SameConfig s t ∧ Accessed [] s t ∧
      Retired 1 s t) ∧
    (∃ t, exec .scf s = .next t ∧ t.f = packFlags s.flagZ false false true ∧
      SameR8Except [] s t ∧ SameMemoryExcept [] s t ∧ SameControl s t ∧ SameConfig s t ∧ Accessed [] s t ∧
      Retired 1 s t) ∧
    (∃ t, exec .ccf s = .next t ∧ t.f = packFlags s.flagZ false false (!s.flagC) ∧
      SameR8Except [] s t ∧ SameMemoryExcept [] s t ∧ SameControl s t ∧ SameConfig s t ∧ Accessed [] s t ∧
      Retired 1 s t)

/-! ### 16-bit arithmetic (42_alu16.md) -/

/-- R200: ADD HL,rr for all four pairs, HL and SP among them: the sum modulo 65536, F.Z kept, H from bit 11, C from
bit 15. -/
def Obligations.AddHlKeepsZero : Prop :=
  ∀ (s : State) (rr : R16), ∃ t, exec (.addHLRr rr) s = .next t ∧
    t.hl = BitVec.ofNat 16 (s.hl.toNat + (s.getR16 rr).toNat) ∧
    t.f = packFlags s.flagZ false (decide (s.hl.toNat % 4096 + (s.getR16 rr).toNat % 4096 > 0x0FFF))
      (decide (s.hl.toNat + (s.getR16 rr).toNat > 0xFFFF)) ∧
    SameR8Except [.h, .l] s t ∧ SameMemoryExcept [] s t ∧ SameControl s t ∧ SameConfig s t ∧ Accessed [] s t ∧
    Retired 2 s t

/-- R201, R202: INC rr and DEC rr wrap modulo 65536 and write no flag; only the named pair or SP changes. -/
def Obligations.IncAndDecOfPairsWriteNoFlag : Prop :=
  ∀ (s : State) (rr : R16),
    (∃ t, exec (.incRr rr) s = .next t ∧ (t.getR16 rr).toNat = ((s.getR16 rr).toNat + 1) % 65536 ∧
      (∀ q, q ≠ rr → t.getR16 q = s.getR16 q) ∧ t.a = s.a ∧ t.f = s.f ∧ t.pc = s.pc ∧ t.ime = s.ime ∧
      SameMemoryExcept [] s t ∧ SameConfig s t ∧ Accessed [] s t ∧ Retired 2 s t) ∧
    (∃ t, exec (.decRr rr) s = .next t ∧ (t.getR16 rr).toNat = ((s.getR16 rr).toNat + 65535) % 65536 ∧
      (∀ q, q ≠ rr → t.getR16 q = s.getR16 q) ∧ t.a = s.a ∧ t.f = s.f ∧ t.pc = s.pc ∧ t.ime = s.ime ∧
      SameMemoryExcept [] s t ∧ SameConfig s t ∧ Accessed [] s t ∧ Retired 2 s t)

/-- R203, R307, R137: ADD SP,e8 and LD HL,SP+e8: the signed displacement added modulo 65536, Z and N cleared, H and C
the carries out of bits 3 and 7 of the unsigned addition. The spec's decision D16. -/
def Obligations.SpDisplacementAddsSignedWithByteFlags : Prop :=
  ∀ (s : State) (e : Byte),
    (∃ t, exec (.addSPE8 e) s = .next t ∧
      (t.sp.toNat : Int) = ((s.sp.toNat : Int) + e.toInt) % 65536 ∧
      t.f = packFlags false false (decide (s.sp.toNat % 16 + e.toNat % 16 > 0x0F))
        (decide (s.sp.toNat % 256 + e.toNat > 0xFF)) ∧
      SameR8Except [] s t ∧ SameMemoryExcept [] s t ∧ t.pc = s.pc ∧ t.ime = s.ime ∧ SameConfig s t ∧
      Accessed [] s t ∧ Retired 4 s t) ∧
    (∃ t, exec (.ldHLSPE8 e) s = .next t ∧
      (t.hl.toNat : Int) = ((s.sp.toNat : Int) + e.toInt) % 65536 ∧
      t.f = packFlags false false (decide (s.sp.toNat % 16 + e.toNat % 16 > 0x0F))
        (decide (s.sp.toNat % 256 + e.toNat > 0xFF)) ∧
      SameR8Except [.h, .l] s t ∧ SameMemoryExcept [] s t ∧ SameControl s t ∧ SameConfig s t ∧
      Accessed [] s t ∧ Retired 3 s t)

/-! ### Rotates, shifts and bits (43_rotate_shift_bit.md) -/

/-- R220 to R223: RLCA, RRCA, RLA, RRA bit by bit; F.Z from the result or cleared, by ACC_ROTATE_Z. The spec's decision
D5. -/
def Obligations.AccumulatorRotatesBitByBit : Prop :=
  ∀ (s : State) (op : ShiftOp) (i : Instr),
    (op, i) ∈ accRotates →
    ∃ t, exec i s = .next t ∧
      (∀ k, k < 8 → t.a.getLsbD k = op.newBit s.a s.flagC k) ∧
      t.f = packFlags (match s.cfg.accRotateZ with | .fromResult => decide (t.a = 0) | .cleared => false) false false
        (op.bitOut s.a) ∧
      SameR8Except [.a] s t ∧ SameMemoryExcept [] s t ∧ SameControl s t ∧ SameConfig s t ∧ Accessed [] s t ∧
      Retired 1 s t

/-- R224 to R239, R128: the eight rotates and shifts of the secondary table, on every register and on the byte at HL, bit
by bit: Z from the result, N and H cleared, C the bit shifted out (0 for SWAP). -/
def Obligations.SecondaryShiftsBitByBit : Prop :=
  ∀ (s : State) (op : ShiftOp) (p : Place), ∃ (t : State) (v : Byte), exec (op.form p) s = .next t ∧
    (∀ k, k < 8 → v.getLsbD k = op.newBit (p.value s) s.flagC k) ∧
    p.Updated v s t ∧
    t.f = packFlags (decide (v = 0)) false false (op.bitOut (p.value s)) ∧
    SameControl s t ∧ SameConfig s t ∧ Retired (p.cycles 2 4) s t

/-- R240, R241: BIT: F.Z is the complement of the tested bit, N cleared, H set, C kept; nothing else is written, and the
(HL) form makes one read and no write. -/
def Obligations.BitTestWritesOnlyFlags : Prop :=
  ∀ (s : State) (b : Fin 8) (p : Place), ∃ t, exec (Place.form (.bitBR b) (.bitBAtHL b) p) s = .next t ∧
    t.f = packFlags (!(p.value s).getLsbD b.val) false true s.flagC ∧
    SameR8Except [] s t ∧ SameMemoryExcept [] s t ∧ SameControl s t ∧ SameConfig s t ∧
    Accessed (match p with | .reg _ => [] | .atHL => [⟨.read, s.hl, s.busValue s.hl⟩]) s t ∧
    Retired (p.cycles 2 3) s t

/-- R242 to R245: RES and SET write bit `b` alone, and no flag. -/
def Obligations.ResAndSetChangeOneBit : Prop :=
  ∀ (s : State) (b : Fin 8) (p : Place),
    (∃ (t : State) (v : Byte), exec (Place.form (.resBR b) (.resBAtHL b) p) s = .next t ∧
      (∀ k, k < 8 → v.getLsbD k = if k = b.val then false else (p.value s).getLsbD k) ∧
      p.Updated v s t ∧ t.f = s.f ∧ SameControl s t ∧ SameConfig s t ∧ Retired (p.cycles 2 4) s t) ∧
    (∃ (t : State) (v : Byte), exec (Place.form (.setBR b) (.setBAtHL b) p) s = .next t ∧
      (∀ k, k < 8 → v.getLsbD k = if k = b.val then true else (p.value s).getLsbD k) ∧
      p.Updated v s t ∧ t.f = s.f ∧ SameControl s t ∧ SameConfig s t ∧ Retired (p.cycles 2 4) s t)

/-! ### 8-bit loads (44_load8.md) -/

/-- R260, R261, R263: loads of a register from a register, from the byte at (the old) HL, from an immediate. -/
def Obligations.RegisterLoadsMoveOneByte : Prop :=
  ∀ (s : State) (dst : R8),
    (∀ src : R8, ∃ t, exec (.ldRR dst src) s = .next t ∧ t.getR8 dst = s.getR8 src ∧
      SameR8Except [dst] s t ∧ t.f = s.f ∧ SameMemoryExcept [] s t ∧ SameControl s t ∧ SameConfig s t ∧
      Accessed [] s t ∧ Retired 1 s t) ∧
    (∃ t, exec (.ldRAtHL dst) s = .next t ∧ t.getR8 dst = s.busValue s.hl ∧
      SameR8Except [dst] s t ∧ t.f = s.f ∧ SameMemoryExcept [] s t ∧ SameControl s t ∧ SameConfig s t ∧
      Accessed [⟨.read, s.hl, s.busValue s.hl⟩] s t ∧ Retired 2 s t) ∧
    (∀ d : Byte, ∃ t, exec (.ldRD8 dst d) s = .next t ∧ t.getR8 dst = d ∧
      SameR8Except [dst] s t ∧ t.f = s.f ∧ SameMemoryExcept [] s t ∧ SameControl s t ∧ SameConfig s t ∧
      Accessed [] s t ∧ Retired 2 s t)

/-- R262, R264: stores of a register or an immediate at HL. -/
def Obligations.StoresAtHlWriteOneByte : Prop :=
  ∀ s : State,
    (∀ r : R8, ∃ t, exec (.ldAtHLR r) s = .next t ∧ Stored s.hl (s.getR8 r) s t ∧ SameMemoryExcept [s.hl] s t ∧
      SameR8Except [] s t ∧ t.f = s.f ∧ SameControl s t ∧ SameConfig s t ∧
      Accessed [⟨.write, s.hl, s.getR8 r⟩] s t ∧ Retired 2 s t) ∧
    (∀ d : Byte, ∃ t, exec (.ldAtHLD8 d) s = .next t ∧ Stored s.hl d s t ∧ SameMemoryExcept [s.hl] s t ∧
      SameR8Except [] s t ∧ t.f = s.f ∧ SameControl s t ∧ SameConfig s t ∧
      Accessed [⟨.write, s.hl, d⟩] s t ∧ Retired 3 s t)

/-- R265, R266, R273, R277, R279: loads of A from (BC), (DE), (a16), (0xFF00 + a8) and (0xFF00 + C). -/
def Obligations.AccumulatorLoadsReadOneByte : Prop :=
  ∀ (s : State) (a16 : Addr) (a8 : Byte) (i : Instr) (addr : Addr) (m : Nat),
    (i, addr, m) ∈ accLoads s a16 a8 →
    ∃ t, exec i s = .next t ∧ t.a = s.busValue addr ∧
      SameR8Except [.a] s t ∧ t.f = s.f ∧ SameMemoryExcept [] s t ∧ SameControl s t ∧ SameConfig s t ∧
      Accessed [⟨.read, addr, s.busValue addr⟩] s t ∧ Retired m s t

/-- R267, R268, R274, R276, R278: stores of A at (BC), (DE), (a16), (0xFF00 + a8) and (0xFF00 + C). -/
def Obligations.AccumulatorStoresWriteOneByte : Prop :=
  ∀ (s : State) (a16 : Addr) (a8 : Byte) (i : Instr) (addr : Addr) (m : Nat),
    (i, addr, m) ∈ accStores s a16 a8 →
    ∃ t, exec i s = .next t ∧ Stored addr s.a s t ∧ SameMemoryExcept [addr] s t ∧
      SameR8Except [] s t ∧ t.f = s.f ∧ SameControl s t ∧ SameConfig s t ∧
      Accessed [⟨.write, addr, s.a⟩] s t ∧ Retired m s t

/-- R269, R270: LD A,(HL+) and LD A,(HL-): the byte at the old HL, then HL up or down by one modulo 65536. -/
def Obligations.LoadsThroughHlStepHl : Prop :=
  ∀ s : State,
    (∃ t, exec .ldAAtHLInc s = .next t ∧ t.a = s.busValue s.hl ∧ t.hl.toNat = (s.hl.toNat + 1) % 65536 ∧
      SameR8Except [.a, .h, .l] s t ∧ t.f = s.f ∧ SameMemoryExcept [] s t ∧ SameControl s t ∧ SameConfig s t ∧
      Accessed [⟨.read, s.hl, s.busValue s.hl⟩] s t ∧ Retired 2 s t) ∧
    (∃ t, exec .ldAAtHLDec s = .next t ∧ t.a = s.busValue s.hl ∧ t.hl.toNat = (s.hl.toNat + 65535) % 65536 ∧
      SameR8Except [.a, .h, .l] s t ∧ t.f = s.f ∧ SameMemoryExcept [] s t ∧ SameControl s t ∧ SameConfig s t ∧
      Accessed [⟨.read, s.hl, s.busValue s.hl⟩] s t ∧ Retired 2 s t)

/-- R271, R272: LD (HL+),A and LD (HL-),A: A at the old HL, then HL up or down by one modulo 65536. -/
def Obligations.StoresThroughHlStepHl : Prop :=
  ∀ s : State,
    (∃ t, exec .ldAtHLIncA s = .next t ∧ Stored s.hl s.a s t ∧ SameMemoryExcept [s.hl] s t ∧
      t.hl.toNat = (s.hl.toNat + 1) % 65536 ∧ SameR8Except [.h, .l] s t ∧ t.f = s.f ∧ SameControl s t ∧
      SameConfig s t ∧ Accessed [⟨.write, s.hl, s.a⟩] s t ∧ Retired 2 s t) ∧
    (∃ t, exec .ldAtHLDecA s = .next t ∧ Stored s.hl s.a s t ∧ SameMemoryExcept [s.hl] s t ∧
      t.hl.toNat = (s.hl.toNat + 65535) % 65536 ∧ SameR8Except [.h, .l] s t ∧ t.f = s.f ∧ SameControl s t ∧
      SameConfig s t ∧ Accessed [⟨.write, s.hl, s.a⟩] s t ∧ Retired 2 s t)

/-! ### 16-bit loads and the stack (45_load16_stack.md) -/

/-- R302, R306: LD rr,d16 and LD SP,HL. -/
def Obligations.WordLoadsReplaceOneRegister : Prop :=
  ∀ s : State,
    (∀ (rr : R16) (d : Word), ∃ t, exec (.ldRrD16 rr d) s = .next t ∧ t.getR16 rr = d ∧
      (∀ q, q ≠ rr → t.getR16 q = s.getR16 q) ∧ t.a = s.a ∧ t.f = s.f ∧ t.pc = s.pc ∧ t.ime = s.ime ∧
      SameMemoryExcept [] s t ∧ SameConfig s t ∧ Accessed [] s t ∧ Retired 3 s t) ∧
    (∃ t, exec .ldSPHL s = .next t ∧ t.sp = s.hl ∧
      SameR8Except [] s t ∧ t.f = s.f ∧ t.pc = s.pc ∧ t.ime = s.ime ∧
      SameMemoryExcept [] s t ∧ SameConfig s t ∧ Accessed [] s t ∧ Retired 2 s t)

/-- R303, R67: LD (a16),SP writes two bytes, the lower address first, split by BYTE_ORDER; the second address wraps. The
spec's decision D2. -/
def Obligations.StoreOfSpWritesTwoBytes : Prop :=
  ∀ (s : State) (a : Addr) (x0 x1 : Byte),
    (x0, x1) = inAddressOrder s.cfg.byteOrder s.sp →
    ∃ t, exec (.ldAtA16SP a) s = .next t ∧ Stored a x0 s t ∧ Stored (a + 1) x1 s t ∧
      SameMemoryExcept [a, a + 1] s t ∧ SameR8Except [] s t ∧ t.f = s.f ∧ SameControl s t ∧ SameConfig s t ∧
      Accessed [⟨.write, a, x0⟩, ⟨.write, a + 1, x1⟩] s t ∧ Retired 5 s t

/-- R304, R300: PUSH rr for all four pairs, AF among them: SP down by 2, the higher address written first, split by
BYTE_ORDER. The spec's decisions D2, D12, D21. -/
def Obligations.PushWritesTwoBytesBelowSp : Prop :=
  ∀ (s : State) (rr : R16S) (x0 x1 : Byte),
    (x0, x1) = inAddressOrder s.cfg.byteOrder (s.getR16S rr) →
    ∃ t, exec (.pushRr rr) s = .next t ∧ t.sp = s.sp - 2 ∧
      Stored (s.sp - 1) x1 s t ∧ Stored (s.sp - 2) x0 s t ∧ SameMemoryExcept [s.sp - 1, s.sp - 2] s t ∧
      SameR8Except [] s t ∧ t.f = s.f ∧ t.pc = s.pc ∧ t.ime = s.ime ∧ SameConfig s t ∧
      Accessed [⟨.write, s.sp - 1, x1⟩, ⟨.write, s.sp - 2, x0⟩] s t ∧ Retired 4 s t

/-- R305, R301: POP rr for all four pairs: the two bytes at SP and SP + 1 assembled by BYTE_ORDER, SP up by 2; POP AF
masks the low nibble of F, the others leave F; the memory is not changed. The spec's decisions D2, D12, D21. -/
def Obligations.PopReadsTwoBytesAtSp : Prop :=
  ∀ (s : State) (rr : R16S) (b0 b1 : Byte),
    b0 = s.busValue s.sp → b1 = (s.memRead s.sp).2.busValue (s.sp + 1) →
    ∃ (t : State) (v : Word), exec (.popRr rr) s = .next t ∧
      v.toNat = wordOf s.cfg.byteOrder b0 b1 ∧
      (match rr with
        | .af => t.a = hiByte v ∧ t.f = loByte v &&& 0xF0 ∧ SameR8Except [.a] s t
        | .bc => t.bc = v ∧ t.f = s.f ∧ SameR8Except [.b, .c] s t
        | .de => t.de = v ∧ t.f = s.f ∧ SameR8Except [.d, .e] s t
        | .hl => t.hl = v ∧ t.f = s.f ∧ SameR8Except [.h, .l] s t) ∧
      t.sp = s.sp + 2 ∧ t.pc = s.pc ∧ t.ime = s.ime ∧ SameMemoryExcept [] s t ∧ SameConfig s t ∧
      Accessed [⟨.read, s.sp, b0⟩, ⟨.read, s.sp + 1, b1⟩] s t ∧ Retired 3 s t

/-- R301, R305: a pop after a push of `v` gives back `v` and the old SP on FlatBus, and PUSH AF then POP AF restores A
and F exactly. The spec's decisions D2, D12, D21. -/
def Obligations.PopAfterPushGivesTheValueBack : Prop :=
  ∀ s : State, s.cfg.bus = .flat → s.Inv →
    (∀ v : Word, (s.push16 v).pop16.1 = v ∧ (s.push16 v).pop16.2.sp = s.sp) ∧
    (∀ t, exec (.pushRr .af) s = .next t → ∃ u, exec (.popRr .af) t = .next u ∧ u.a = s.a ∧ u.f = s.f ∧ u.sp = s.sp)

/-! ### Control transfer (46_control_transfer.md) -/

/-- R321, R323, R324: JP a16, JP HL and JR e8 write PC (JR: PC past the instruction plus the signed displacement modulo
65536) and nothing else. The modulus of JR is the spec's decision D20 and the byte order of a16 D2; the operands of JP
a16 and JR e8 are already fetched (log entry 7). -/
def Obligations.JumpsWriteOnlyPc : Prop :=
  ∀ (s : State) (i : Instr) (target : Addr) (a : Addr) (e : Byte) (m : Nat),
    (i, target, m) ∈ jumps s a e →
    ∃ t, exec i s = .next t ∧ t.pc = target ∧ t.sp = s.sp ∧ t.ime = s.ime ∧
      SameR8Except [] s t ∧ t.f = s.f ∧ SameMemoryExcept [] s t ∧ SameConfig s t ∧ Accessed [] s t ∧ Retired m s t

/-- R320, R322, R325: JP cc and JR cc: taken when the condition on F.Z or F.C holds, otherwise PC stays past the
instruction; the two cycle counts. The spec's decisions D9, D20, D24. -/
def Obligations.ConditionalJumpsTestTheFlag : Prop :=
  ∀ (s : State) (cc : CC) (i : Instr) (target : Addr) (a : Addr) (e : Byte) (m n : Nat) (taken : Bool),
    (i, target, m, n) ∈ condJumps s cc a e →
    taken = condHolds cc s.flagZ s.flagC →
    ∃ t, exec i s = .next t ∧ t.pc = (if taken then target else s.pc) ∧ t.sp = s.sp ∧ t.ime = s.ime ∧
      SameR8Except [] s t ∧ t.f = s.f ∧ SameMemoryExcept [] s t ∧ SameConfig s t ∧ Accessed [] s t ∧
      Retired (if taken then m else n) s t

/-- R326, R331: CALL a16 and RST t push the address of the next instruction and jump; RST's target is y * 8; IME and the
flags are untouched. The spec's decisions D2, D12, D21. -/
def Obligations.CallsAndRestartsPushTheReturnAddress : Prop :=
  ∀ (s : State) (i : Instr) (target : Addr) (a : Addr) (y : RST) (m : Nat) (x0 x1 : Byte),
    (i, target, m) ∈ calls a y →
    (x0, x1) = inAddressOrder s.cfg.byteOrder s.pc →
    ∃ t, exec i s = .next t ∧ t.pc = target ∧ t.sp = s.sp - 2 ∧ t.ime = s.ime ∧
      Stored (s.sp - 1) x1 s t ∧ Stored (s.sp - 2) x0 s t ∧ SameMemoryExcept [s.sp - 1, s.sp - 2] s t ∧
      SameR8Except [] s t ∧ t.f = s.f ∧ SameConfig s t ∧
      Accessed [⟨.write, s.sp - 1, x1⟩, ⟨.write, s.sp - 2, x0⟩] s t ∧ Retired m s t

/-- R327: CALL cc,a16: taken, as CALL; not taken, neither SP nor memory nor PC changes. The spec's decisions D9, D24. -/
def Obligations.ConditionalCallTestsTheFlag : Prop :=
  ∀ (s : State) (cc : CC) (a : Addr) (taken : Bool) (x0 x1 : Byte),
    taken = condHolds cc s.flagZ s.flagC →
    (x0, x1) = inAddressOrder s.cfg.byteOrder s.pc →
    ∃ t, exec (.callCcA16 cc a) s = .next t ∧ SameR8Except [] s t ∧ t.f = s.f ∧ t.ime = s.ime ∧ SameConfig s t ∧
      (taken = true → t.pc = a ∧ t.sp = s.sp - 2 ∧
        Stored (s.sp - 1) x1 s t ∧ Stored (s.sp - 2) x0 s t ∧ SameMemoryExcept [s.sp - 1, s.sp - 2] s t ∧
        Accessed [⟨.write, s.sp - 1, x1⟩, ⟨.write, s.sp - 2, x0⟩] s t ∧ Retired 6 s t) ∧
      (taken = false → t.pc = s.pc ∧ t.sp = s.sp ∧ SameMemoryExcept [] s t ∧ Accessed [] s t ∧ Retired 3 s t)

/-- R328, R330: RET and RETI pop PC; RETI also sets IME. The spec's decisions D2, D8. -/
def Obligations.ReturnsPopPc : Prop :=
  ∀ (s : State) (b0 b1 : Byte) (i : Instr) (ime : Bool),
    b0 = s.busValue s.sp → b1 = (s.memRead s.sp).2.busValue (s.sp + 1) →
    (i, ime) ∈ returns s →
    ∃ t, exec i s = .next t ∧
      t.pc.toNat = wordOf s.cfg.byteOrder b0 b1 ∧
      t.sp = s.sp + 2 ∧ t.ime = ime ∧ SameR8Except [] s t ∧ t.f = s.f ∧ SameMemoryExcept [] s t ∧ SameConfig s t ∧
      Accessed [⟨.read, s.sp, b0⟩, ⟨.read, s.sp + 1, b1⟩] s t ∧ Retired 4 s t

/-- R329: RET cc: taken, as RET with 5 M; not taken, no stack access, SP and PC unchanged, 2 M. The spec's decision D9.
-/
def Obligations.ConditionalReturnTestsTheFlag : Prop :=
  ∀ (s : State) (cc : CC) (taken : Bool) (b0 b1 : Byte),
    taken = condHolds cc s.flagZ s.flagC →
    b0 = s.busValue s.sp → b1 = (s.memRead s.sp).2.busValue (s.sp + 1) →
    ∃ t, exec (.retCc cc) s = .next t ∧ SameR8Except [] s t ∧ t.f = s.f ∧ t.ime = s.ime ∧ SameMemoryExcept [] s t ∧
      SameConfig s t ∧
      (taken = true →
        t.pc.toNat = wordOf s.cfg.byteOrder b0 b1 ∧
        t.sp = s.sp + 2 ∧ Accessed [⟨.read, s.sp, b0⟩, ⟨.read, s.sp + 1, b1⟩] s t ∧ Retired 5 s t) ∧
      (taken = false → t.pc = s.pc ∧ t.sp = s.sp ∧ Accessed [] s t ∧ Retired 2 s t)

/-! ### Miscellaneous and system (47_misc_system.md) and the run -/

/-- R350 to R354: NOP, HALT, STOP, DI and EI: the outcome, IME, and nothing else. HALT, STOP and EI rest on the spec's
decisions D7, D17, D8. -/
def Obligations.MiscInstructionsChangeOnlyImeAndOutcome : Prop :=
  ∀ (s : State) (pad : Byte),
    exec .nop s = .next { s with last := .retired 1 (s.cfg.tPerM * 1) } ∧
    exec .halt s = .next { s with last := .halted .halt 1 (s.cfg.tPerM * 1) } ∧
    exec (.stop pad) s = .next { s with last := .halted .stop 1 (s.cfg.tPerM * 1) } ∧
    exec .di s = .next { s with ime := false, last := .retired 1 (s.cfg.tPerM * 1) } ∧
    exec .ei s = .next { s with ime := true, last := .retired 1 (s.cfg.tPerM * 1) }

/-- R355, R371 step 3: the prefix entry fetches the next byte, advances PC again and runs the secondary table's entry for
it; it always completes, since the secondary table is full (R102). -/
def Obligations.PrefixRunsTheSecondaryEntry : Prop :=
  ∀ s : State, ∃ t, exec .prefixCB s = .next t ∧
    exec (decodeSecondary (s.busValue s.pc))
      { s with
        pc := s.pc + 1
        accesses := s.accesses ++ [⟨.read, s.pc, s.busValue s.pc⟩]
        busState := s.busAfterRead s.pc } = .next t

/-- R356: each invalid byte raises `InvalidOpcode(primary, byte, addr)`, `addr` one below PC as a meaning sees it. The
spec's decision D4; log entries 6, 7. -/
def Obligations.InvalidBytesRaiseInvalidOpcode : Prop :=
  ∀ (s : State) (i : Instr) (b : Byte),
    (i, b) ∈ invalidEntries →
    exec i s = .fault (.invalidOpcode .primary b (s.pc - 1))

/-- R378, R379: a `Halted` outcome ends the run when HOST_RESUMES_HALT is false and not when it is true; `InvalidOpcode`
ends it with the state before the step; any other completed step goes on. The spec's decisions D4, D7. -/
def Obligations.RunEndsAtHaltedAndAtInvalidOpcode : Prop :=
  ∀ (k : Nat) (s : State),
    (∀ t, step s = .next t →
      (t.last.isHalted = true → t.cfg.hostResumesHalt = false → runHost (k + 1) s = .halted t) ∧
      (t.last.isHalted = true → t.cfg.hostResumesHalt = true → runHost (k + 1) s = runHost k t) ∧
      (t.last.isHalted = false → runHost (k + 1) s = runHost k t)) ∧
    (∀ r, step s = .fault r → runHost (k + 1) s = .stuck r s)

/-! ### The bus (20_memory.md) -/

/-- R61 to R64, R70 (the spec's decisions D12, D13; the records are log entries 3 and 4): for every instruction, what is
behind the bus, FlatBus's bytes and an external bus's state alike, is moved by the accesses the instruction records, in
their order, and by nothing else, and each read is recorded with the byte the bus answered to it; and a whole step moves
it by exactly the accesses of the step, its fetches among them. -/
def Obligations.BusIsMovedByTheRecordedAccessesAlone : Prop :=
  (∀ (i : Instr) (s t : State), exec i s = .next t → BusFollows s t) ∧
  (∀ s t : State, step s = .next t → BusTook s.cfg.bus s.behindBus t.accesses t.behindBus)
end

