-- ==== Sys2Proof/Laws/State.lean ====
section
/-! SUPPORT. Laws/State: one lemma per field and update, so that no later proof unfolds a record update. -/

namespace Sys2Proof.Machine

/-- The mask of R26 leaves a packed flag byte as it is. -/
@[simp] theorem packFlags_masked (z n h c : Bool) : packFlags z n h c &&& 240#8 = packFlags z n h c := by
  revert z n h c; decide

/-- A packed flag byte has its low nibble 0 (R26). -/
@[simp] theorem packFlags_low (z n h c : Bool) : packFlags z n h c &&& 15#8 = 0#8 := by
  revert z n h c; decide

@[simp] theorem packFlags_bit7 (z n h c : Bool) : (packFlags z n h c)[7] = z := by
  revert z n h c; decide
@[simp] theorem packFlags_bit6 (z n h c : Bool) : (packFlags z n h c)[6] = n := by
  revert z n h c; decide
@[simp] theorem packFlags_bit5 (z n h c : Bool) : (packFlags z n h c)[5] = h := by
  revert z n h c; decide
@[simp] theorem packFlags_bit4 (z n h c : Bool) : (packFlags z n h c)[4] = c := by
  revert z n h c; decide

theorem packFlags_z (z n h c : Bool) : (packFlags z n h c).getLsbD 7 = z := by
  revert z n h c; decide
theorem packFlags_n (z n h c : Bool) : (packFlags z n h c).getLsbD 6 = n := by
  revert z n h c; decide
theorem packFlags_h (z n h c : Bool) : (packFlags z n h c).getLsbD 5 = h := by
  revert z n h c; decide
theorem packFlags_c (z n h c : Bool) : (packFlags z n h c).getLsbD 4 = c := by
  revert z n h c; decide

/-! ### `State.setF` -/

@[simp] theorem State.setF_a (s : State) (v : Byte) : (s.setF v).a = s.a := rfl
@[simp] theorem State.setF_b (s : State) (v : Byte) : (s.setF v).b = s.b := rfl
@[simp] theorem State.setF_c (s : State) (v : Byte) : (s.setF v).c = s.c := rfl
@[simp] theorem State.setF_d (s : State) (v : Byte) : (s.setF v).d = s.d := rfl
@[simp] theorem State.setF_e (s : State) (v : Byte) : (s.setF v).e = s.e := rfl
@[simp] theorem State.setF_h (s : State) (v : Byte) : (s.setF v).h = s.h := rfl
@[simp] theorem State.setF_l (s : State) (v : Byte) : (s.setF v).l = s.l := rfl
@[simp] theorem State.setF_f (s : State) (v : Byte) : (s.setF v).f = v &&& 0xF0 := rfl
@[simp] theorem State.setF_pc (s : State) (v : Byte) : (s.setF v).pc = s.pc := rfl
@[simp] theorem State.setF_sp (s : State) (v : Byte) : (s.setF v).sp = s.sp := rfl
@[simp] theorem State.setF_ime (s : State) (v : Byte) : (s.setF v).ime = s.ime := rfl
@[simp] theorem State.setF_mem (s : State) (v : Byte) : (s.setF v).mem = s.mem := rfl
@[simp] theorem State.setF_cfg (s : State) (v : Byte) : (s.setF v).cfg = s.cfg := rfl
@[simp] theorem State.setF_written (s : State) (v : Byte) : (s.setF v).written = s.written := rfl
@[simp] theorem State.setF_last (s : State) (v : Byte) : (s.setF v).last = s.last := rfl
@[simp] theorem State.setF_accesses (s : State) (v : Byte) : (s.setF v).accesses = s.accesses := rfl
@[simp] theorem State.setF_busState (s : State) (v : Byte) : (s.setF v).busState = s.busState := rfl

/-! ### `State.writeFlags` -/

@[simp] theorem State.writeFlags_a (s : State) (z n h c : Option Bool) : (s.writeFlags z n h c).a = s.a := rfl
@[simp] theorem State.writeFlags_b (s : State) (z n h c : Option Bool) : (s.writeFlags z n h c).b = s.b := rfl
@[simp] theorem State.writeFlags_c (s : State) (z n h c : Option Bool) : (s.writeFlags z n h c).c = s.c := rfl
@[simp] theorem State.writeFlags_d (s : State) (z n h c : Option Bool) : (s.writeFlags z n h c).d = s.d := rfl
@[simp] theorem State.writeFlags_e (s : State) (z n h c : Option Bool) : (s.writeFlags z n h c).e = s.e := rfl
@[simp] theorem State.writeFlags_h (s : State) (z n h c : Option Bool) : (s.writeFlags z n h c).h = s.h := rfl
@[simp] theorem State.writeFlags_l (s : State) (z n h c : Option Bool) : (s.writeFlags z n h c).l = s.l := rfl
@[simp] theorem State.writeFlags_f (s : State) (z n h c : Option Bool) : (s.writeFlags z n h c).f = packFlags (z.getD s.flagZ) (n.getD s.flagN) (h.getD s.flagH) (c.getD s.flagC) := packFlags_masked _ _ _ _
@[simp] theorem State.writeFlags_pc (s : State) (z n h c : Option Bool) : (s.writeFlags z n h c).pc = s.pc := rfl
@[simp] theorem State.writeFlags_sp (s : State) (z n h c : Option Bool) : (s.writeFlags z n h c).sp = s.sp := rfl
@[simp] theorem State.writeFlags_ime (s : State) (z n h c : Option Bool) : (s.writeFlags z n h c).ime = s.ime := rfl
@[simp] theorem State.writeFlags_mem (s : State) (z n h c : Option Bool) : (s.writeFlags z n h c).mem = s.mem := rfl
@[simp] theorem State.writeFlags_cfg (s : State) (z n h c : Option Bool) : (s.writeFlags z n h c).cfg = s.cfg := rfl
@[simp] theorem State.writeFlags_written (s : State) (z n h c : Option Bool) : (s.writeFlags z n h c).written = s.written := rfl
@[simp] theorem State.writeFlags_last (s : State) (z n h c : Option Bool) : (s.writeFlags z n h c).last = s.last := rfl
@[simp] theorem State.writeFlags_accesses (s : State) (z n h c : Option Bool) : (s.writeFlags z n h c).accesses = s.accesses := rfl
@[simp] theorem State.writeFlags_busState (s : State) (z n h c : Option Bool) : (s.writeFlags z n h c).busState = s.busState := rfl

/-! ### `State.setR8` -/

@[simp] theorem State.setR8_f (s : State) (r : R8) (v : Byte) : (s.setR8 r v).f = s.f := by cases r <;> rfl
@[simp] theorem State.setR8_pc (s : State) (r : R8) (v : Byte) : (s.setR8 r v).pc = s.pc := by cases r <;> rfl
@[simp] theorem State.setR8_sp (s : State) (r : R8) (v : Byte) : (s.setR8 r v).sp = s.sp := by cases r <;> rfl
@[simp] theorem State.setR8_ime (s : State) (r : R8) (v : Byte) : (s.setR8 r v).ime = s.ime := by cases r <;> rfl
@[simp] theorem State.setR8_mem (s : State) (r : R8) (v : Byte) : (s.setR8 r v).mem = s.mem := by cases r <;> rfl
@[simp] theorem State.setR8_cfg (s : State) (r : R8) (v : Byte) : (s.setR8 r v).cfg = s.cfg := by cases r <;> rfl
@[simp] theorem State.setR8_written (s : State) (r : R8) (v : Byte) : (s.setR8 r v).written = s.written := by cases r <;> rfl
@[simp] theorem State.setR8_last (s : State) (r : R8) (v : Byte) : (s.setR8 r v).last = s.last := by cases r <;> rfl
@[simp] theorem State.setR8_accesses (s : State) (r : R8) (v : Byte) : (s.setR8 r v).accesses = s.accesses := by cases r <;> rfl
@[simp] theorem State.setR8_busState (s : State) (r : R8) (v : Byte) : (s.setR8 r v).busState = s.busState := by cases r <;> rfl

/-! ### `State.setAF` -/

@[simp] theorem State.setAF_a (s : State) (v : Word) : (s.setAF v).a = hiByte v := rfl
@[simp] theorem State.setAF_b (s : State) (v : Word) : (s.setAF v).b = s.b := rfl
@[simp] theorem State.setAF_c (s : State) (v : Word) : (s.setAF v).c = s.c := rfl
@[simp] theorem State.setAF_d (s : State) (v : Word) : (s.setAF v).d = s.d := rfl
@[simp] theorem State.setAF_e (s : State) (v : Word) : (s.setAF v).e = s.e := rfl
@[simp] theorem State.setAF_h (s : State) (v : Word) : (s.setAF v).h = s.h := rfl
@[simp] theorem State.setAF_l (s : State) (v : Word) : (s.setAF v).l = s.l := rfl
@[simp] theorem State.setAF_f (s : State) (v : Word) : (s.setAF v).f = loByte v &&& 0xF0 := rfl
@[simp] theorem State.setAF_pc (s : State) (v : Word) : (s.setAF v).pc = s.pc := rfl
@[simp] theorem State.setAF_sp (s : State) (v : Word) : (s.setAF v).sp = s.sp := rfl
@[simp] theorem State.setAF_ime (s : State) (v : Word) : (s.setAF v).ime = s.ime := rfl
@[simp] theorem State.setAF_mem (s : State) (v : Word) : (s.setAF v).mem = s.mem := rfl
@[simp] theorem State.setAF_cfg (s : State) (v : Word) : (s.setAF v).cfg = s.cfg := rfl
@[simp] theorem State.setAF_written (s : State) (v : Word) : (s.setAF v).written = s.written := rfl
@[simp] theorem State.setAF_last (s : State) (v : Word) : (s.setAF v).last = s.last := rfl
@[simp] theorem State.setAF_accesses (s : State) (v : Word) : (s.setAF v).accesses = s.accesses := rfl
@[simp] theorem State.setAF_busState (s : State) (v : Word) : (s.setAF v).busState = s.busState := rfl

/-! ### `State.setBC` -/

@[simp] theorem State.setBC_a (s : State) (v : Word) : (s.setBC v).a = s.a := rfl
@[simp] theorem State.setBC_b (s : State) (v : Word) : (s.setBC v).b = hiByte v := rfl
@[simp] theorem State.setBC_c (s : State) (v : Word) : (s.setBC v).c = loByte v := rfl
@[simp] theorem State.setBC_d (s : State) (v : Word) : (s.setBC v).d = s.d := rfl
@[simp] theorem State.setBC_e (s : State) (v : Word) : (s.setBC v).e = s.e := rfl
@[simp] theorem State.setBC_h (s : State) (v : Word) : (s.setBC v).h = s.h := rfl
@[simp] theorem State.setBC_l (s : State) (v : Word) : (s.setBC v).l = s.l := rfl
@[simp] theorem State.setBC_f (s : State) (v : Word) : (s.setBC v).f = s.f := rfl
@[simp] theorem State.setBC_pc (s : State) (v : Word) : (s.setBC v).pc = s.pc := rfl
@[simp] theorem State.setBC_sp (s : State) (v : Word) : (s.setBC v).sp = s.sp := rfl
@[simp] theorem State.setBC_ime (s : State) (v : Word) : (s.setBC v).ime = s.ime := rfl
@[simp] theorem State.setBC_mem (s : State) (v : Word) : (s.setBC v).mem = s.mem := rfl
@[simp] theorem State.setBC_cfg (s : State) (v : Word) : (s.setBC v).cfg = s.cfg := rfl
@[simp] theorem State.setBC_written (s : State) (v : Word) : (s.setBC v).written = s.written := rfl
@[simp] theorem State.setBC_last (s : State) (v : Word) : (s.setBC v).last = s.last := rfl
@[simp] theorem State.setBC_accesses (s : State) (v : Word) : (s.setBC v).accesses = s.accesses := rfl
@[simp] theorem State.setBC_busState (s : State) (v : Word) : (s.setBC v).busState = s.busState := rfl

/-! ### `State.setDE` -/

@[simp] theorem State.setDE_a (s : State) (v : Word) : (s.setDE v).a = s.a := rfl
@[simp] theorem State.setDE_b (s : State) (v : Word) : (s.setDE v).b = s.b := rfl
@[simp] theorem State.setDE_c (s : State) (v : Word) : (s.setDE v).c = s.c := rfl
@[simp] theorem State.setDE_d (s : State) (v : Word) : (s.setDE v).d = hiByte v := rfl
@[simp] theorem State.setDE_e (s : State) (v : Word) : (s.setDE v).e = loByte v := rfl
@[simp] theorem State.setDE_h (s : State) (v : Word) : (s.setDE v).h = s.h := rfl
@[simp] theorem State.setDE_l (s : State) (v : Word) : (s.setDE v).l = s.l := rfl
@[simp] theorem State.setDE_f (s : State) (v : Word) : (s.setDE v).f = s.f := rfl
@[simp] theorem State.setDE_pc (s : State) (v : Word) : (s.setDE v).pc = s.pc := rfl
@[simp] theorem State.setDE_sp (s : State) (v : Word) : (s.setDE v).sp = s.sp := rfl
@[simp] theorem State.setDE_ime (s : State) (v : Word) : (s.setDE v).ime = s.ime := rfl
@[simp] theorem State.setDE_mem (s : State) (v : Word) : (s.setDE v).mem = s.mem := rfl
@[simp] theorem State.setDE_cfg (s : State) (v : Word) : (s.setDE v).cfg = s.cfg := rfl
@[simp] theorem State.setDE_written (s : State) (v : Word) : (s.setDE v).written = s.written := rfl
@[simp] theorem State.setDE_last (s : State) (v : Word) : (s.setDE v).last = s.last := rfl
@[simp] theorem State.setDE_accesses (s : State) (v : Word) : (s.setDE v).accesses = s.accesses := rfl
@[simp] theorem State.setDE_busState (s : State) (v : Word) : (s.setDE v).busState = s.busState := rfl

/-! ### `State.setHL` -/

@[simp] theorem State.setHL_a (s : State) (v : Word) : (s.setHL v).a = s.a := rfl
@[simp] theorem State.setHL_b (s : State) (v : Word) : (s.setHL v).b = s.b := rfl
@[simp] theorem State.setHL_c (s : State) (v : Word) : (s.setHL v).c = s.c := rfl
@[simp] theorem State.setHL_d (s : State) (v : Word) : (s.setHL v).d = s.d := rfl
@[simp] theorem State.setHL_e (s : State) (v : Word) : (s.setHL v).e = s.e := rfl
@[simp] theorem State.setHL_h (s : State) (v : Word) : (s.setHL v).h = hiByte v := rfl
@[simp] theorem State.setHL_l (s : State) (v : Word) : (s.setHL v).l = loByte v := rfl
@[simp] theorem State.setHL_f (s : State) (v : Word) : (s.setHL v).f = s.f := rfl
@[simp] theorem State.setHL_pc (s : State) (v : Word) : (s.setHL v).pc = s.pc := rfl
@[simp] theorem State.setHL_sp (s : State) (v : Word) : (s.setHL v).sp = s.sp := rfl
@[simp] theorem State.setHL_ime (s : State) (v : Word) : (s.setHL v).ime = s.ime := rfl
@[simp] theorem State.setHL_mem (s : State) (v : Word) : (s.setHL v).mem = s.mem := rfl
@[simp] theorem State.setHL_cfg (s : State) (v : Word) : (s.setHL v).cfg = s.cfg := rfl
@[simp] theorem State.setHL_written (s : State) (v : Word) : (s.setHL v).written = s.written := rfl
@[simp] theorem State.setHL_last (s : State) (v : Word) : (s.setHL v).last = s.last := rfl
@[simp] theorem State.setHL_accesses (s : State) (v : Word) : (s.setHL v).accesses = s.accesses := rfl
@[simp] theorem State.setHL_busState (s : State) (v : Word) : (s.setHL v).busState = s.busState := rfl

/-! ### `State.setR16` -/

@[simp] theorem State.setR16_a (s : State) (rr : R16) (v : Word) : (s.setR16 rr v).a = s.a := by cases rr <;> rfl
@[simp] theorem State.setR16_f (s : State) (rr : R16) (v : Word) : (s.setR16 rr v).f = s.f := by cases rr <;> rfl
@[simp] theorem State.setR16_pc (s : State) (rr : R16) (v : Word) : (s.setR16 rr v).pc = s.pc := by cases rr <;> rfl
@[simp] theorem State.setR16_ime (s : State) (rr : R16) (v : Word) : (s.setR16 rr v).ime = s.ime := by cases rr <;> rfl
@[simp] theorem State.setR16_mem (s : State) (rr : R16) (v : Word) : (s.setR16 rr v).mem = s.mem := by cases rr <;> rfl
@[simp] theorem State.setR16_cfg (s : State) (rr : R16) (v : Word) : (s.setR16 rr v).cfg = s.cfg := by cases rr <;> rfl
@[simp] theorem State.setR16_written (s : State) (rr : R16) (v : Word) : (s.setR16 rr v).written = s.written := by cases rr <;> rfl
@[simp] theorem State.setR16_last (s : State) (rr : R16) (v : Word) : (s.setR16 rr v).last = s.last := by cases rr <;> rfl
@[simp] theorem State.setR16_accesses (s : State) (rr : R16) (v : Word) : (s.setR16 rr v).accesses = s.accesses := by cases rr <;> rfl
@[simp] theorem State.setR16_busState (s : State) (rr : R16) (v : Word) : (s.setR16 rr v).busState = s.busState := by cases rr <;> rfl

/-! ### `State.setR16S` -/

@[simp] theorem State.setR16S_pc (s : State) (rr : R16S) (v : Word) : (s.setR16S rr v).pc = s.pc := by cases rr <;> rfl
@[simp] theorem State.setR16S_sp (s : State) (rr : R16S) (v : Word) : (s.setR16S rr v).sp = s.sp := by cases rr <;> rfl
@[simp] theorem State.setR16S_ime (s : State) (rr : R16S) (v : Word) : (s.setR16S rr v).ime = s.ime := by cases rr <;> rfl
@[simp] theorem State.setR16S_mem (s : State) (rr : R16S) (v : Word) : (s.setR16S rr v).mem = s.mem := by cases rr <;> rfl
@[simp] theorem State.setR16S_cfg (s : State) (rr : R16S) (v : Word) : (s.setR16S rr v).cfg = s.cfg := by cases rr <;> rfl
@[simp] theorem State.setR16S_written (s : State) (rr : R16S) (v : Word) : (s.setR16S rr v).written = s.written := by cases rr <;> rfl
@[simp] theorem State.setR16S_last (s : State) (rr : R16S) (v : Word) : (s.setR16S rr v).last = s.last := by cases rr <;> rfl
@[simp] theorem State.setR16S_accesses (s : State) (rr : R16S) (v : Word) : (s.setR16S rr v).accesses = s.accesses := by cases rr <;> rfl
@[simp] theorem State.setR16S_busState (s : State) (rr : R16S) (v : Word) : (s.setR16S rr v).busState = s.busState := by cases rr <;> rfl

/-! ### `State.setA` -/

@[simp] theorem State.setA_a (s : State) (v : Byte) : (s.setA v).a = v := rfl
@[simp] theorem State.setA_b (s : State) (v : Byte) : (s.setA v).b = s.b := rfl
@[simp] theorem State.setA_c (s : State) (v : Byte) : (s.setA v).c = s.c := rfl
@[simp] theorem State.setA_d (s : State) (v : Byte) : (s.setA v).d = s.d := rfl
@[simp] theorem State.setA_e (s : State) (v : Byte) : (s.setA v).e = s.e := rfl
@[simp] theorem State.setA_h (s : State) (v : Byte) : (s.setA v).h = s.h := rfl
@[simp] theorem State.setA_l (s : State) (v : Byte) : (s.setA v).l = s.l := rfl
@[simp] theorem State.setA_f (s : State) (v : Byte) : (s.setA v).f = s.f := rfl
@[simp] theorem State.setA_pc (s : State) (v : Byte) : (s.setA v).pc = s.pc := rfl
@[simp] theorem State.setA_sp (s : State) (v : Byte) : (s.setA v).sp = s.sp := rfl
@[simp] theorem State.setA_ime (s : State) (v : Byte) : (s.setA v).ime = s.ime := rfl
@[simp] theorem State.setA_mem (s : State) (v : Byte) : (s.setA v).mem = s.mem := rfl
@[simp] theorem State.setA_cfg (s : State) (v : Byte) : (s.setA v).cfg = s.cfg := rfl
@[simp] theorem State.setA_written (s : State) (v : Byte) : (s.setA v).written = s.written := rfl
@[simp] theorem State.setA_last (s : State) (v : Byte) : (s.setA v).last = s.last := rfl
@[simp] theorem State.setA_accesses (s : State) (v : Byte) : (s.setA v).accesses = s.accesses := rfl
@[simp] theorem State.setA_busState (s : State) (v : Byte) : (s.setA v).busState = s.busState := rfl

/-! ### `State.setPc` -/

@[simp] theorem State.setPc_a (s : State) (v : Word) : (s.setPc v).a = s.a := rfl
@[simp] theorem State.setPc_b (s : State) (v : Word) : (s.setPc v).b = s.b := rfl
@[simp] theorem State.setPc_c (s : State) (v : Word) : (s.setPc v).c = s.c := rfl
@[simp] theorem State.setPc_d (s : State) (v : Word) : (s.setPc v).d = s.d := rfl
@[simp] theorem State.setPc_e (s : State) (v : Word) : (s.setPc v).e = s.e := rfl
@[simp] theorem State.setPc_h (s : State) (v : Word) : (s.setPc v).h = s.h := rfl
@[simp] theorem State.setPc_l (s : State) (v : Word) : (s.setPc v).l = s.l := rfl
@[simp] theorem State.setPc_f (s : State) (v : Word) : (s.setPc v).f = s.f := rfl
@[simp] theorem State.setPc_pc (s : State) (v : Word) : (s.setPc v).pc = v := rfl
@[simp] theorem State.setPc_sp (s : State) (v : Word) : (s.setPc v).sp = s.sp := rfl
@[simp] theorem State.setPc_ime (s : State) (v : Word) : (s.setPc v).ime = s.ime := rfl
@[simp] theorem State.setPc_mem (s : State) (v : Word) : (s.setPc v).mem = s.mem := rfl
@[simp] theorem State.setPc_cfg (s : State) (v : Word) : (s.setPc v).cfg = s.cfg := rfl
@[simp] theorem State.setPc_written (s : State) (v : Word) : (s.setPc v).written = s.written := rfl
@[simp] theorem State.setPc_last (s : State) (v : Word) : (s.setPc v).last = s.last := rfl
@[simp] theorem State.setPc_accesses (s : State) (v : Word) : (s.setPc v).accesses = s.accesses := rfl
@[simp] theorem State.setPc_busState (s : State) (v : Word) : (s.setPc v).busState = s.busState := rfl

/-! ### `State.setSp` -/

@[simp] theorem State.setSp_a (s : State) (v : Word) : (s.setSp v).a = s.a := rfl
@[simp] theorem State.setSp_b (s : State) (v : Word) : (s.setSp v).b = s.b := rfl
@[simp] theorem State.setSp_c (s : State) (v : Word) : (s.setSp v).c = s.c := rfl
@[simp] theorem State.setSp_d (s : State) (v : Word) : (s.setSp v).d = s.d := rfl
@[simp] theorem State.setSp_e (s : State) (v : Word) : (s.setSp v).e = s.e := rfl
@[simp] theorem State.setSp_h (s : State) (v : Word) : (s.setSp v).h = s.h := rfl
@[simp] theorem State.setSp_l (s : State) (v : Word) : (s.setSp v).l = s.l := rfl
@[simp] theorem State.setSp_f (s : State) (v : Word) : (s.setSp v).f = s.f := rfl
@[simp] theorem State.setSp_pc (s : State) (v : Word) : (s.setSp v).pc = s.pc := rfl
@[simp] theorem State.setSp_sp (s : State) (v : Word) : (s.setSp v).sp = v := rfl
@[simp] theorem State.setSp_ime (s : State) (v : Word) : (s.setSp v).ime = s.ime := rfl
@[simp] theorem State.setSp_mem (s : State) (v : Word) : (s.setSp v).mem = s.mem := rfl
@[simp] theorem State.setSp_cfg (s : State) (v : Word) : (s.setSp v).cfg = s.cfg := rfl
@[simp] theorem State.setSp_written (s : State) (v : Word) : (s.setSp v).written = s.written := rfl
@[simp] theorem State.setSp_last (s : State) (v : Word) : (s.setSp v).last = s.last := rfl
@[simp] theorem State.setSp_accesses (s : State) (v : Word) : (s.setSp v).accesses = s.accesses := rfl
@[simp] theorem State.setSp_busState (s : State) (v : Word) : (s.setSp v).busState = s.busState := rfl

/-! ### `State.setIme` -/

@[simp] theorem State.setIme_a (s : State) (v : Bool) : (s.setIme v).a = s.a := rfl
@[simp] theorem State.setIme_b (s : State) (v : Bool) : (s.setIme v).b = s.b := rfl
@[simp] theorem State.setIme_c (s : State) (v : Bool) : (s.setIme v).c = s.c := rfl
@[simp] theorem State.setIme_d (s : State) (v : Bool) : (s.setIme v).d = s.d := rfl
@[simp] theorem State.setIme_e (s : State) (v : Bool) : (s.setIme v).e = s.e := rfl
@[simp] theorem State.setIme_h (s : State) (v : Bool) : (s.setIme v).h = s.h := rfl
@[simp] theorem State.setIme_l (s : State) (v : Bool) : (s.setIme v).l = s.l := rfl
@[simp] theorem State.setIme_f (s : State) (v : Bool) : (s.setIme v).f = s.f := rfl
@[simp] theorem State.setIme_pc (s : State) (v : Bool) : (s.setIme v).pc = s.pc := rfl
@[simp] theorem State.setIme_sp (s : State) (v : Bool) : (s.setIme v).sp = s.sp := rfl
@[simp] theorem State.setIme_ime (s : State) (v : Bool) : (s.setIme v).ime = v := rfl
@[simp] theorem State.setIme_mem (s : State) (v : Bool) : (s.setIme v).mem = s.mem := rfl
@[simp] theorem State.setIme_cfg (s : State) (v : Bool) : (s.setIme v).cfg = s.cfg := rfl
@[simp] theorem State.setIme_written (s : State) (v : Bool) : (s.setIme v).written = s.written := rfl
@[simp] theorem State.setIme_last (s : State) (v : Bool) : (s.setIme v).last = s.last := rfl
@[simp] theorem State.setIme_accesses (s : State) (v : Bool) : (s.setIme v).accesses = s.accesses := rfl
@[simp] theorem State.setIme_busState (s : State) (v : Bool) : (s.setIme v).busState = s.busState := rfl

/-! ### `State.report` -/

@[simp] theorem State.report_a (s : State) (r : StepReport) : (s.report r).a = s.a := rfl
@[simp] theorem State.report_b (s : State) (r : StepReport) : (s.report r).b = s.b := rfl
@[simp] theorem State.report_c (s : State) (r : StepReport) : (s.report r).c = s.c := rfl
@[simp] theorem State.report_d (s : State) (r : StepReport) : (s.report r).d = s.d := rfl
@[simp] theorem State.report_e (s : State) (r : StepReport) : (s.report r).e = s.e := rfl
@[simp] theorem State.report_h (s : State) (r : StepReport) : (s.report r).h = s.h := rfl
@[simp] theorem State.report_l (s : State) (r : StepReport) : (s.report r).l = s.l := rfl
@[simp] theorem State.report_f (s : State) (r : StepReport) : (s.report r).f = s.f := rfl
@[simp] theorem State.report_pc (s : State) (r : StepReport) : (s.report r).pc = s.pc := rfl
@[simp] theorem State.report_sp (s : State) (r : StepReport) : (s.report r).sp = s.sp := rfl
@[simp] theorem State.report_ime (s : State) (r : StepReport) : (s.report r).ime = s.ime := rfl
@[simp] theorem State.report_mem (s : State) (r : StepReport) : (s.report r).mem = s.mem := rfl
@[simp] theorem State.report_cfg (s : State) (r : StepReport) : (s.report r).cfg = s.cfg := rfl
@[simp] theorem State.report_written (s : State) (r : StepReport) : (s.report r).written = s.written := rfl
@[simp] theorem State.report_last (s : State) (r : StepReport) : (s.report r).last = r := rfl
@[simp] theorem State.report_accesses (s : State) (r : StepReport) : (s.report r).accesses = s.accesses := rfl
@[simp] theorem State.report_busState (s : State) (r : StepReport) : (s.report r).busState = s.busState := rfl

/-! ### `State.memRead` -/

@[simp] theorem State.memRead_value (s : State) (a : Addr) : (s.memRead a).1 = s.busValue a := rfl
@[simp] theorem State.memRead_a (s : State) (a : Addr) : (s.memRead a).2.a = s.a := rfl
@[simp] theorem State.memRead_b (s : State) (a : Addr) : (s.memRead a).2.b = s.b := rfl
@[simp] theorem State.memRead_c (s : State) (a : Addr) : (s.memRead a).2.c = s.c := rfl
@[simp] theorem State.memRead_d (s : State) (a : Addr) : (s.memRead a).2.d = s.d := rfl
@[simp] theorem State.memRead_e (s : State) (a : Addr) : (s.memRead a).2.e = s.e := rfl
@[simp] theorem State.memRead_h (s : State) (a : Addr) : (s.memRead a).2.h = s.h := rfl
@[simp] theorem State.memRead_l (s : State) (a : Addr) : (s.memRead a).2.l = s.l := rfl
@[simp] theorem State.memRead_f (s : State) (a : Addr) : (s.memRead a).2.f = s.f := rfl
@[simp] theorem State.memRead_pc (s : State) (a : Addr) : (s.memRead a).2.pc = s.pc := rfl
@[simp] theorem State.memRead_sp (s : State) (a : Addr) : (s.memRead a).2.sp = s.sp := rfl
@[simp] theorem State.memRead_ime (s : State) (a : Addr) : (s.memRead a).2.ime = s.ime := rfl
@[simp] theorem State.memRead_mem (s : State) (a : Addr) : (s.memRead a).2.mem = s.mem := rfl
@[simp] theorem State.memRead_cfg (s : State) (a : Addr) : (s.memRead a).2.cfg = s.cfg := rfl
@[simp] theorem State.memRead_written (s : State) (a : Addr) : (s.memRead a).2.written = s.written := rfl
@[simp] theorem State.memRead_last (s : State) (a : Addr) : (s.memRead a).2.last = s.last := rfl
@[simp] theorem State.memRead_accesses (s : State) (a : Addr) : (s.memRead a).2.accesses = s.accesses ++ [⟨.read, a, s.busValue a⟩] := rfl
@[simp] theorem State.memRead_busState (s : State) (a : Addr) : (s.memRead a).2.busState = s.busAfterRead a := rfl

/-! ### `State.memWrite` -/

@[simp] theorem State.memWrite_a (s : State) (a : Addr) (v : Byte) : (s.memWrite a v).a = s.a := rfl
@[simp] theorem State.memWrite_b (s : State) (a : Addr) (v : Byte) : (s.memWrite a v).b = s.b := rfl
@[simp] theorem State.memWrite_c (s : State) (a : Addr) (v : Byte) : (s.memWrite a v).c = s.c := rfl
@[simp] theorem State.memWrite_d (s : State) (a : Addr) (v : Byte) : (s.memWrite a v).d = s.d := rfl
@[simp] theorem State.memWrite_e (s : State) (a : Addr) (v : Byte) : (s.memWrite a v).e = s.e := rfl
@[simp] theorem State.memWrite_h (s : State) (a : Addr) (v : Byte) : (s.memWrite a v).h = s.h := rfl
@[simp] theorem State.memWrite_l (s : State) (a : Addr) (v : Byte) : (s.memWrite a v).l = s.l := rfl
@[simp] theorem State.memWrite_f (s : State) (a : Addr) (v : Byte) : (s.memWrite a v).f = s.f := rfl
@[simp] theorem State.memWrite_pc (s : State) (a : Addr) (v : Byte) : (s.memWrite a v).pc = s.pc := rfl
@[simp] theorem State.memWrite_sp (s : State) (a : Addr) (v : Byte) : (s.memWrite a v).sp = s.sp := rfl
@[simp] theorem State.memWrite_ime (s : State) (a : Addr) (v : Byte) : (s.memWrite a v).ime = s.ime := rfl
@[simp] theorem State.memWrite_cfg (s : State) (a : Addr) (v : Byte) : (s.memWrite a v).cfg = s.cfg := rfl
@[simp] theorem State.memWrite_written (s : State) (a : Addr) (v : Byte) : (s.memWrite a v).written = s.written := rfl
@[simp] theorem State.memWrite_last (s : State) (a : Addr) (v : Byte) : (s.memWrite a v).last = s.last := rfl
@[simp] theorem State.memWrite_accesses (s : State) (a : Addr) (v : Byte) : (s.memWrite a v).accesses = s.accesses ++ [⟨.write, a, v⟩] := rfl
@[simp] theorem State.memWrite_busState (s : State) (a : Addr) (v : Byte) : (s.memWrite a v).busState = s.busAfterWrite a v := rfl

/-! ### `State.memWrite16` -/

@[simp] theorem State.memWrite16_a (s : State) (a : Addr) (v : Word) : (s.memWrite16 a v).a = s.a := by simp [State.memWrite16]
@[simp] theorem State.memWrite16_b (s : State) (a : Addr) (v : Word) : (s.memWrite16 a v).b = s.b := by simp [State.memWrite16]
@[simp] theorem State.memWrite16_c (s : State) (a : Addr) (v : Word) : (s.memWrite16 a v).c = s.c := by simp [State.memWrite16]
@[simp] theorem State.memWrite16_d (s : State) (a : Addr) (v : Word) : (s.memWrite16 a v).d = s.d := by simp [State.memWrite16]
@[simp] theorem State.memWrite16_e (s : State) (a : Addr) (v : Word) : (s.memWrite16 a v).e = s.e := by simp [State.memWrite16]
@[simp] theorem State.memWrite16_h (s : State) (a : Addr) (v : Word) : (s.memWrite16 a v).h = s.h := by simp [State.memWrite16]
@[simp] theorem State.memWrite16_l (s : State) (a : Addr) (v : Word) : (s.memWrite16 a v).l = s.l := by simp [State.memWrite16]
@[simp] theorem State.memWrite16_f (s : State) (a : Addr) (v : Word) : (s.memWrite16 a v).f = s.f := by simp [State.memWrite16]
@[simp] theorem State.memWrite16_pc (s : State) (a : Addr) (v : Word) : (s.memWrite16 a v).pc = s.pc := by simp [State.memWrite16]
@[simp] theorem State.memWrite16_sp (s : State) (a : Addr) (v : Word) : (s.memWrite16 a v).sp = s.sp := by simp [State.memWrite16]
@[simp] theorem State.memWrite16_ime (s : State) (a : Addr) (v : Word) : (s.memWrite16 a v).ime = s.ime := by simp [State.memWrite16]
@[simp] theorem State.memWrite16_cfg (s : State) (a : Addr) (v : Word) : (s.memWrite16 a v).cfg = s.cfg := by simp [State.memWrite16]
@[simp] theorem State.memWrite16_written (s : State) (a : Addr) (v : Word) : (s.memWrite16 a v).written = s.written := by simp [State.memWrite16]
@[simp] theorem State.memWrite16_last (s : State) (a : Addr) (v : Word) : (s.memWrite16 a v).last = s.last := by simp [State.memWrite16]
@[simp] theorem State.memWrite16_accesses (s : State) (a : Addr) (v : Word) : (s.memWrite16 a v).accesses = s.accesses ++ [⟨.write, a, lowerByte s.cfg.byteOrder v⟩] ++ [⟨.write, a + 1, upperByte s.cfg.byteOrder v⟩] := by simp [State.memWrite16]

/-- A push as one chain of updates (R300). -/
theorem State.push16_eq (s : State) (v : Word) :
    s.push16 v = (((s.setSp (s.sp - 1)).memWrite (s.sp - 1) (upperByte s.cfg.byteOrder v)).setSp (s.sp - 1 - 1)).memWrite
      (s.sp - 1 - 1) (lowerByte s.cfg.byteOrder v) := rfl

/-- A pop as one chain of updates (R301). -/
theorem State.pop16_eq (s : State) :
    s.pop16.2 = (((s.memRead s.sp).2.setSp (s.sp + 1)).memRead (s.sp + 1)).2.setSp (s.sp + 1 + 1) := rfl

/-! ### `State.push16` -/

@[simp] theorem State.push16_a (s : State) (v : Word) : (s.push16 v).a = s.a := by simp [State.push16_eq]
@[simp] theorem State.push16_b (s : State) (v : Word) : (s.push16 v).b = s.b := by simp [State.push16_eq]
@[simp] theorem State.push16_c (s : State) (v : Word) : (s.push16 v).c = s.c := by simp [State.push16_eq]
@[simp] theorem State.push16_d (s : State) (v : Word) : (s.push16 v).d = s.d := by simp [State.push16_eq]
@[simp] theorem State.push16_e (s : State) (v : Word) : (s.push16 v).e = s.e := by simp [State.push16_eq]
@[simp] theorem State.push16_h (s : State) (v : Word) : (s.push16 v).h = s.h := by simp [State.push16_eq]
@[simp] theorem State.push16_l (s : State) (v : Word) : (s.push16 v).l = s.l := by simp [State.push16_eq]
@[simp] theorem State.push16_f (s : State) (v : Word) : (s.push16 v).f = s.f := by simp [State.push16_eq]
@[simp] theorem State.push16_pc (s : State) (v : Word) : (s.push16 v).pc = s.pc := by simp [State.push16_eq]
@[simp] theorem State.push16_sp (s : State) (v : Word) : (s.push16 v).sp = s.sp - 1 - 1 := by simp [State.push16_eq]
@[simp] theorem State.push16_ime (s : State) (v : Word) : (s.push16 v).ime = s.ime := by simp [State.push16_eq]
@[simp] theorem State.push16_cfg (s : State) (v : Word) : (s.push16 v).cfg = s.cfg := by simp [State.push16_eq]
@[simp] theorem State.push16_written (s : State) (v : Word) : (s.push16 v).written = s.written := by simp [State.push16_eq]
@[simp] theorem State.push16_last (s : State) (v : Word) : (s.push16 v).last = s.last := by simp [State.push16_eq]
@[simp] theorem State.push16_accesses (s : State) (v : Word) : (s.push16 v).accesses = s.accesses ++ [⟨.write, s.sp - 1, upperByte s.cfg.byteOrder v⟩] ++ [⟨.write, s.sp - 1 - 1, lowerByte s.cfg.byteOrder v⟩] := by simp [State.push16_eq]

/-! ### `State.pop16` -/

@[simp] theorem State.pop16_a (s : State) : s.pop16.2.a = s.a := by simp [State.pop16_eq]
@[simp] theorem State.pop16_b (s : State) : s.pop16.2.b = s.b := by simp [State.pop16_eq]
@[simp] theorem State.pop16_c (s : State) : s.pop16.2.c = s.c := by simp [State.pop16_eq]
@[simp] theorem State.pop16_d (s : State) : s.pop16.2.d = s.d := by simp [State.pop16_eq]
@[simp] theorem State.pop16_e (s : State) : s.pop16.2.e = s.e := by simp [State.pop16_eq]
@[simp] theorem State.pop16_h (s : State) : s.pop16.2.h = s.h := by simp [State.pop16_eq]
@[simp] theorem State.pop16_l (s : State) : s.pop16.2.l = s.l := by simp [State.pop16_eq]
@[simp] theorem State.pop16_f (s : State) : s.pop16.2.f = s.f := by simp [State.pop16_eq]
@[simp] theorem State.pop16_pc (s : State) : s.pop16.2.pc = s.pc := by simp [State.pop16_eq]
@[simp] theorem State.pop16_sp (s : State) : s.pop16.2.sp = s.sp + 1 + 1 := by simp [State.pop16_eq]
@[simp] theorem State.pop16_ime (s : State) : s.pop16.2.ime = s.ime := by simp [State.pop16_eq]
@[simp] theorem State.pop16_mem (s : State) : s.pop16.2.mem = s.mem := by simp [State.pop16_eq]
@[simp] theorem State.pop16_cfg (s : State) : s.pop16.2.cfg = s.cfg := by simp [State.pop16_eq]
@[simp] theorem State.pop16_written (s : State) : s.pop16.2.written = s.written := by simp [State.pop16_eq]
@[simp] theorem State.pop16_last (s : State) : s.pop16.2.last = s.last := by simp [State.pop16_eq]

/-! ### `State.fetch8` -/

@[simp] theorem State.fetch8_value (s : State) : s.fetch8.1 = s.busValue s.pc := rfl
@[simp] theorem State.fetch8_a (s : State) : s.fetch8.2.a = s.a := rfl
@[simp] theorem State.fetch8_b (s : State) : s.fetch8.2.b = s.b := rfl
@[simp] theorem State.fetch8_c (s : State) : s.fetch8.2.c = s.c := rfl
@[simp] theorem State.fetch8_d (s : State) : s.fetch8.2.d = s.d := rfl
@[simp] theorem State.fetch8_e (s : State) : s.fetch8.2.e = s.e := rfl
@[simp] theorem State.fetch8_h (s : State) : s.fetch8.2.h = s.h := rfl
@[simp] theorem State.fetch8_l (s : State) : s.fetch8.2.l = s.l := rfl
@[simp] theorem State.fetch8_f (s : State) : s.fetch8.2.f = s.f := rfl
@[simp] theorem State.fetch8_pc (s : State) : s.fetch8.2.pc = s.pc + 1 := rfl
@[simp] theorem State.fetch8_sp (s : State) : s.fetch8.2.sp = s.sp := rfl
@[simp] theorem State.fetch8_ime (s : State) : s.fetch8.2.ime = s.ime := rfl
@[simp] theorem State.fetch8_mem (s : State) : s.fetch8.2.mem = s.mem := rfl
@[simp] theorem State.fetch8_cfg (s : State) : s.fetch8.2.cfg = s.cfg := rfl
@[simp] theorem State.fetch8_written (s : State) : s.fetch8.2.written = s.written := rfl
@[simp] theorem State.fetch8_last (s : State) : s.fetch8.2.last = s.last := rfl
@[simp] theorem State.fetch8_accesses (s : State) : s.fetch8.2.accesses = s.accesses ++ [⟨.read, s.pc, s.busValue s.pc⟩] := rfl
@[simp] theorem State.fetch8_busState (s : State) : s.fetch8.2.busState = s.busAfterRead s.pc := rfl

/-! ### `State.beginStep` -/

@[simp] theorem State.beginStep_a (s : State) : (s.beginStep).a = s.a := rfl
@[simp] theorem State.beginStep_b (s : State) : (s.beginStep).b = s.b := rfl
@[simp] theorem State.beginStep_c (s : State) : (s.beginStep).c = s.c := rfl
@[simp] theorem State.beginStep_d (s : State) : (s.beginStep).d = s.d := rfl
@[simp] theorem State.beginStep_e (s : State) : (s.beginStep).e = s.e := rfl
@[simp] theorem State.beginStep_h (s : State) : (s.beginStep).h = s.h := rfl
@[simp] theorem State.beginStep_l (s : State) : (s.beginStep).l = s.l := rfl
@[simp] theorem State.beginStep_f (s : State) : (s.beginStep).f = s.f := rfl
@[simp] theorem State.beginStep_pc (s : State) : (s.beginStep).pc = s.pc := rfl
@[simp] theorem State.beginStep_sp (s : State) : (s.beginStep).sp = s.sp := rfl
@[simp] theorem State.beginStep_ime (s : State) : (s.beginStep).ime = s.ime := rfl
@[simp] theorem State.beginStep_mem (s : State) : (s.beginStep).mem = s.mem := rfl
@[simp] theorem State.beginStep_cfg (s : State) : (s.beginStep).cfg = s.cfg := rfl
@[simp] theorem State.beginStep_written (s : State) : (s.beginStep).written = s.written := rfl
@[simp] theorem State.beginStep_last (s : State) : (s.beginStep).last = s.last := rfl
@[simp] theorem State.beginStep_accesses (s : State) : (s.beginStep).accesses = [] := rfl
@[simp] theorem State.beginStep_busState (s : State) : (s.beginStep).busState = s.busState := rfl

/-! ### `State.jumpTo` -/

@[simp] theorem jumpTo_a (s : State) (t : Addr) : (jumpTo t s).a = s.a := rfl
@[simp] theorem jumpTo_b (s : State) (t : Addr) : (jumpTo t s).b = s.b := rfl
@[simp] theorem jumpTo_c (s : State) (t : Addr) : (jumpTo t s).c = s.c := rfl
@[simp] theorem jumpTo_d (s : State) (t : Addr) : (jumpTo t s).d = s.d := rfl
@[simp] theorem jumpTo_e (s : State) (t : Addr) : (jumpTo t s).e = s.e := rfl
@[simp] theorem jumpTo_h (s : State) (t : Addr) : (jumpTo t s).h = s.h := rfl
@[simp] theorem jumpTo_l (s : State) (t : Addr) : (jumpTo t s).l = s.l := rfl
@[simp] theorem jumpTo_f (s : State) (t : Addr) : (jumpTo t s).f = s.f := rfl
@[simp] theorem jumpTo_pc (s : State) (t : Addr) : (jumpTo t s).pc = t := rfl
@[simp] theorem jumpTo_sp (s : State) (t : Addr) : (jumpTo t s).sp = s.sp := rfl
@[simp] theorem jumpTo_ime (s : State) (t : Addr) : (jumpTo t s).ime = s.ime := rfl
@[simp] theorem jumpTo_mem (s : State) (t : Addr) : (jumpTo t s).mem = s.mem := rfl
@[simp] theorem jumpTo_cfg (s : State) (t : Addr) : (jumpTo t s).cfg = s.cfg := rfl
@[simp] theorem jumpTo_written (s : State) (t : Addr) : (jumpTo t s).written = s.written := rfl
@[simp] theorem jumpTo_last (s : State) (t : Addr) : (jumpTo t s).last = s.last := rfl
@[simp] theorem jumpTo_accesses (s : State) (t : Addr) : (jumpTo t s).accesses = s.accesses := rfl
@[simp] theorem jumpTo_busState (s : State) (t : Addr) : (jumpTo t s).busState = s.busState := rfl

/-! ### `State.jumpRel` -/

@[simp] theorem jumpRel_a (s : State) (e : Byte) : (jumpRel e s).a = s.a := rfl
@[simp] theorem jumpRel_b (s : State) (e : Byte) : (jumpRel e s).b = s.b := rfl
@[simp] theorem jumpRel_c (s : State) (e : Byte) : (jumpRel e s).c = s.c := rfl
@[simp] theorem jumpRel_d (s : State) (e : Byte) : (jumpRel e s).d = s.d := rfl
@[simp] theorem jumpRel_e (s : State) (e : Byte) : (jumpRel e s).e = s.e := rfl
@[simp] theorem jumpRel_h (s : State) (e : Byte) : (jumpRel e s).h = s.h := rfl
@[simp] theorem jumpRel_l (s : State) (e : Byte) : (jumpRel e s).l = s.l := rfl
@[simp] theorem jumpRel_f (s : State) (e : Byte) : (jumpRel e s).f = s.f := rfl
@[simp] theorem jumpRel_pc (s : State) (e : Byte) : (jumpRel e s).pc = s.pc + sext16 e := rfl
@[simp] theorem jumpRel_sp (s : State) (e : Byte) : (jumpRel e s).sp = s.sp := rfl
@[simp] theorem jumpRel_ime (s : State) (e : Byte) : (jumpRel e s).ime = s.ime := rfl
@[simp] theorem jumpRel_mem (s : State) (e : Byte) : (jumpRel e s).mem = s.mem := rfl
@[simp] theorem jumpRel_cfg (s : State) (e : Byte) : (jumpRel e s).cfg = s.cfg := rfl
@[simp] theorem jumpRel_written (s : State) (e : Byte) : (jumpRel e s).written = s.written := rfl
@[simp] theorem jumpRel_last (s : State) (e : Byte) : (jumpRel e s).last = s.last := rfl
@[simp] theorem jumpRel_accesses (s : State) (e : Byte) : (jumpRel e s).accesses = s.accesses := rfl
@[simp] theorem jumpRel_busState (s : State) (e : Byte) : (jumpRel e s).busState = s.busState := rfl

/-! ### `State.callTo` -/

@[simp] theorem callTo_a (s : State) (t : Addr) : (callTo t s).a = s.a := by simp [callTo, jumpTo]
@[simp] theorem callTo_b (s : State) (t : Addr) : (callTo t s).b = s.b := by simp [callTo, jumpTo]
@[simp] theorem callTo_c (s : State) (t : Addr) : (callTo t s).c = s.c := by simp [callTo, jumpTo]
@[simp] theorem callTo_d (s : State) (t : Addr) : (callTo t s).d = s.d := by simp [callTo, jumpTo]
@[simp] theorem callTo_e (s : State) (t : Addr) : (callTo t s).e = s.e := by simp [callTo, jumpTo]
@[simp] theorem callTo_h (s : State) (t : Addr) : (callTo t s).h = s.h := by simp [callTo, jumpTo]
@[simp] theorem callTo_l (s : State) (t : Addr) : (callTo t s).l = s.l := by simp [callTo, jumpTo]
@[simp] theorem callTo_f (s : State) (t : Addr) : (callTo t s).f = s.f := by simp [callTo, jumpTo]
@[simp] theorem callTo_pc (s : State) (t : Addr) : (callTo t s).pc = t := by simp [callTo, jumpTo]
@[simp] theorem callTo_sp (s : State) (t : Addr) : (callTo t s).sp = s.sp - 1 - 1 := by simp [callTo, jumpTo]
@[simp] theorem callTo_ime (s : State) (t : Addr) : (callTo t s).ime = s.ime := by simp [callTo, jumpTo]
@[simp] theorem callTo_mem (s : State) (t : Addr) : (callTo t s).mem = (s.push16 s.pc).mem := by simp [callTo, jumpTo]
@[simp] theorem callTo_cfg (s : State) (t : Addr) : (callTo t s).cfg = s.cfg := by simp [callTo, jumpTo]
@[simp] theorem callTo_written (s : State) (t : Addr) : (callTo t s).written = s.written := by simp [callTo, jumpTo]
@[simp] theorem callTo_last (s : State) (t : Addr) : (callTo t s).last = s.last := by simp [callTo, jumpTo]
@[simp] theorem callTo_accesses (s : State) (t : Addr) : (callTo t s).accesses = s.accesses ++ [⟨.write, s.sp - 1, upperByte s.cfg.byteOrder s.pc⟩] ++ [⟨.write, s.sp - 1 - 1, lowerByte s.cfg.byteOrder s.pc⟩] := by simp [callTo, jumpTo]
@[simp] theorem callTo_busState (s : State) (t : Addr) : (callTo t s).busState = (s.push16 s.pc).busState := by simp [callTo, jumpTo]

/-! ### `State.returnFrom` -/

@[simp] theorem returnFrom_a (s : State) : (returnFrom s).a = s.a := by simp [returnFrom, jumpTo]
@[simp] theorem returnFrom_b (s : State) : (returnFrom s).b = s.b := by simp [returnFrom, jumpTo]
@[simp] theorem returnFrom_c (s : State) : (returnFrom s).c = s.c := by simp [returnFrom, jumpTo]
@[simp] theorem returnFrom_d (s : State) : (returnFrom s).d = s.d := by simp [returnFrom, jumpTo]
@[simp] theorem returnFrom_e (s : State) : (returnFrom s).e = s.e := by simp [returnFrom, jumpTo]
@[simp] theorem returnFrom_h (s : State) : (returnFrom s).h = s.h := by simp [returnFrom, jumpTo]
@[simp] theorem returnFrom_l (s : State) : (returnFrom s).l = s.l := by simp [returnFrom, jumpTo]
@[simp] theorem returnFrom_f (s : State) : (returnFrom s).f = s.f := by simp [returnFrom, jumpTo]
@[simp] theorem returnFrom_pc (s : State) : (returnFrom s).pc = s.pop16.1 := by simp [returnFrom, jumpTo]
@[simp] theorem returnFrom_sp (s : State) : (returnFrom s).sp = s.sp + 1 + 1 := by simp [returnFrom, jumpTo]
@[simp] theorem returnFrom_ime (s : State) : (returnFrom s).ime = s.ime := by simp [returnFrom, jumpTo]
@[simp] theorem returnFrom_mem (s : State) : (returnFrom s).mem = s.mem := by simp [returnFrom, jumpTo]
@[simp] theorem returnFrom_cfg (s : State) : (returnFrom s).cfg = s.cfg := by simp [returnFrom, jumpTo]
@[simp] theorem returnFrom_written (s : State) : (returnFrom s).written = s.written := by simp [returnFrom, jumpTo]
@[simp] theorem returnFrom_last (s : State) : (returnFrom s).last = s.last := by simp [returnFrom, jumpTo]
@[simp] theorem returnFrom_accesses (s : State) : (returnFrom s).accesses = s.pop16.2.accesses := by simp [returnFrom, jumpTo]
@[simp] theorem returnFrom_busState (s : State) : (returnFrom s).busState = s.pop16.2.busState := by simp [returnFrom, jumpTo]

/-! ### `State.coreReset` -/

@[simp] theorem State.coreReset_a (s : State) : (s.coreReset).a = 0 := rfl
@[simp] theorem State.coreReset_b (s : State) : (s.coreReset).b = 0 := rfl
@[simp] theorem State.coreReset_c (s : State) : (s.coreReset).c = 0 := rfl
@[simp] theorem State.coreReset_d (s : State) : (s.coreReset).d = 0 := rfl
@[simp] theorem State.coreReset_e (s : State) : (s.coreReset).e = 0 := rfl
@[simp] theorem State.coreReset_h (s : State) : (s.coreReset).h = 0 := rfl
@[simp] theorem State.coreReset_l (s : State) : (s.coreReset).l = 0 := rfl
@[simp] theorem State.coreReset_f (s : State) : (s.coreReset).f = 0 := rfl
@[simp] theorem State.coreReset_pc (s : State) : (s.coreReset).pc = 0 := rfl
@[simp] theorem State.coreReset_sp (s : State) : (s.coreReset).sp = 0 := rfl
@[simp] theorem State.coreReset_ime (s : State) : (s.coreReset).ime = true := rfl
@[simp] theorem State.coreReset_mem (s : State) : (s.coreReset).mem = s.mem := rfl
@[simp] theorem State.coreReset_cfg (s : State) : (s.coreReset).cfg = s.cfg := rfl
@[simp] theorem State.coreReset_written (s : State) : (s.coreReset).written = Written.all := rfl
@[simp] theorem State.coreReset_last (s : State) : (s.coreReset).last = .none := rfl
@[simp] theorem State.coreReset_accesses (s : State) : (s.coreReset).accesses = [] := rfl
@[simp] theorem State.coreReset_busState (s : State) : (s.coreReset).busState = s.busState := rfl

/-! ### `State.hostPoke` -/

@[simp] theorem hostPoke_a (s : State) (a : Addr) (v : Byte) : (hostPoke a v s).a = s.a := rfl
@[simp] theorem hostPoke_b (s : State) (a : Addr) (v : Byte) : (hostPoke a v s).b = s.b := rfl
@[simp] theorem hostPoke_c (s : State) (a : Addr) (v : Byte) : (hostPoke a v s).c = s.c := rfl
@[simp] theorem hostPoke_d (s : State) (a : Addr) (v : Byte) : (hostPoke a v s).d = s.d := rfl
@[simp] theorem hostPoke_e (s : State) (a : Addr) (v : Byte) : (hostPoke a v s).e = s.e := rfl
@[simp] theorem hostPoke_h (s : State) (a : Addr) (v : Byte) : (hostPoke a v s).h = s.h := rfl
@[simp] theorem hostPoke_l (s : State) (a : Addr) (v : Byte) : (hostPoke a v s).l = s.l := rfl
@[simp] theorem hostPoke_f (s : State) (a : Addr) (v : Byte) : (hostPoke a v s).f = s.f := rfl
@[simp] theorem hostPoke_pc (s : State) (a : Addr) (v : Byte) : (hostPoke a v s).pc = s.pc := rfl
@[simp] theorem hostPoke_sp (s : State) (a : Addr) (v : Byte) : (hostPoke a v s).sp = s.sp := rfl
@[simp] theorem hostPoke_ime (s : State) (a : Addr) (v : Byte) : (hostPoke a v s).ime = s.ime := rfl
@[simp] theorem hostPoke_mem (s : State) (a : Addr) (v : Byte) : (hostPoke a v s).mem = s.mem.write a.toNat v := rfl
@[simp] theorem hostPoke_cfg (s : State) (a : Addr) (v : Byte) : (hostPoke a v s).cfg = s.cfg := rfl
@[simp] theorem hostPoke_written (s : State) (a : Addr) (v : Byte) : (hostPoke a v s).written = s.written := rfl
@[simp] theorem hostPoke_last (s : State) (a : Addr) (v : Byte) : (hostPoke a v s).last = s.last := rfl
@[simp] theorem hostPoke_accesses (s : State) (a : Addr) (v : Byte) : (hostPoke a v s).accesses = s.accesses := rfl
@[simp] theorem hostPoke_busState (s : State) (a : Addr) (v : Byte) : (hostPoke a v s).busState = s.busState := rfl

/-! ### `State.hostBus` -/

@[simp] theorem hostBus_a (s : State) (b : Nat) : (hostBus b s).a = s.a := rfl
@[simp] theorem hostBus_b (s : State) (b : Nat) : (hostBus b s).b = s.b := rfl
@[simp] theorem hostBus_c (s : State) (b : Nat) : (hostBus b s).c = s.c := rfl
@[simp] theorem hostBus_d (s : State) (b : Nat) : (hostBus b s).d = s.d := rfl
@[simp] theorem hostBus_e (s : State) (b : Nat) : (hostBus b s).e = s.e := rfl
@[simp] theorem hostBus_h (s : State) (b : Nat) : (hostBus b s).h = s.h := rfl
@[simp] theorem hostBus_l (s : State) (b : Nat) : (hostBus b s).l = s.l := rfl
@[simp] theorem hostBus_f (s : State) (b : Nat) : (hostBus b s).f = s.f := rfl
@[simp] theorem hostBus_pc (s : State) (b : Nat) : (hostBus b s).pc = s.pc := rfl
@[simp] theorem hostBus_sp (s : State) (b : Nat) : (hostBus b s).sp = s.sp := rfl
@[simp] theorem hostBus_ime (s : State) (b : Nat) : (hostBus b s).ime = s.ime := rfl
@[simp] theorem hostBus_mem (s : State) (b : Nat) : (hostBus b s).mem = s.mem := rfl
@[simp] theorem hostBus_cfg (s : State) (b : Nat) : (hostBus b s).cfg = s.cfg := rfl
@[simp] theorem hostBus_written (s : State) (b : Nat) : (hostBus b s).written = s.written := rfl
@[simp] theorem hostBus_last (s : State) (b : Nat) : (hostBus b s).last = s.last := rfl
@[simp] theorem hostBus_accesses (s : State) (b : Nat) : (hostBus b s).accesses = s.accesses := rfl
@[simp] theorem hostBus_busState (s : State) (b : Nat) : (hostBus b s).busState = b := rfl

/-! ### `State.withFetchWord` -/

@[simp] theorem State.withFetchWord_a (s : State) (nbits w : Nat) : (s.withFetchWord nbits w).a = s.a := rfl
@[simp] theorem State.withFetchWord_b (s : State) (nbits w : Nat) : (s.withFetchWord nbits w).b = s.b := rfl
@[simp] theorem State.withFetchWord_c (s : State) (nbits w : Nat) : (s.withFetchWord nbits w).c = s.c := rfl
@[simp] theorem State.withFetchWord_d (s : State) (nbits w : Nat) : (s.withFetchWord nbits w).d = s.d := rfl
@[simp] theorem State.withFetchWord_e (s : State) (nbits w : Nat) : (s.withFetchWord nbits w).e = s.e := rfl
@[simp] theorem State.withFetchWord_h (s : State) (nbits w : Nat) : (s.withFetchWord nbits w).h = s.h := rfl
@[simp] theorem State.withFetchWord_l (s : State) (nbits w : Nat) : (s.withFetchWord nbits w).l = s.l := rfl
@[simp] theorem State.withFetchWord_f (s : State) (nbits w : Nat) : (s.withFetchWord nbits w).f = s.f := rfl
@[simp] theorem State.withFetchWord_pc (s : State) (nbits w : Nat) : (s.withFetchWord nbits w).pc = s.pc := rfl
@[simp] theorem State.withFetchWord_sp (s : State) (nbits w : Nat) : (s.withFetchWord nbits w).sp = s.sp := rfl
@[simp] theorem State.withFetchWord_ime (s : State) (nbits w : Nat) : (s.withFetchWord nbits w).ime = s.ime := rfl
@[simp] theorem State.withFetchWord_mem (s : State) (nbits w : Nat) : (s.withFetchWord nbits w).mem = placeBytes s.mem s.pc (tableBytes nbits w) := rfl
@[simp] theorem State.withFetchWord_cfg (s : State) (nbits w : Nat) : (s.withFetchWord nbits w).cfg = { s.cfg with bus := .flat } := rfl
@[simp] theorem State.withFetchWord_written (s : State) (nbits w : Nat) : (s.withFetchWord nbits w).written = s.written := rfl
@[simp] theorem State.withFetchWord_last (s : State) (nbits w : Nat) : (s.withFetchWord nbits w).last = s.last := rfl
@[simp] theorem State.withFetchWord_accesses (s : State) (nbits w : Nat) : (s.withFetchWord nbits w).accesses = s.accesses := rfl
@[simp] theorem State.withFetchWord_busState (s : State) (nbits w : Nat) : (s.withFetchWord nbits w).busState = s.busState := rfl

/-! ### Registers read back -/

@[simp] theorem State.getR8_setR8 (s : State) (r q : R8) (v : Byte) :
    (s.setR8 r v).getR8 q = if q = r then v else s.getR8 q := by
  cases r <;> cases q <;> rfl

theorem State.getR8_of_eq {s t : State} (ha : t.a = s.a) (hb : t.b = s.b) (hc : t.c = s.c) (hd : t.d = s.d)
    (he : t.e = s.e) (hh : t.h = s.h) (hl : t.l = s.l) (r : R8) : t.getR8 r = s.getR8 r := by
  cases r <;> assumption

@[simp] theorem State.getR8_setF (s : State) (v : Byte) (r : R8) : (s.setF v).getR8 r = s.getR8 r := by cases r <;> rfl
@[simp] theorem State.bc_setF (s : State) (v : Byte) : (s.setF v).bc = s.bc := rfl
@[simp] theorem State.de_setF (s : State) (v : Byte) : (s.setF v).de = s.de := rfl
@[simp] theorem State.hl_setF (s : State) (v : Byte) : (s.setF v).hl = s.hl := rfl
@[simp] theorem State.getR8_writeFlags (s : State) (z n h c : Option Bool) (r : R8) : (s.writeFlags z n h c).getR8 r = s.getR8 r := by cases r <;> rfl
@[simp] theorem State.bc_writeFlags (s : State) (z n h c : Option Bool) : (s.writeFlags z n h c).bc = s.bc := rfl
@[simp] theorem State.de_writeFlags (s : State) (z n h c : Option Bool) : (s.writeFlags z n h c).de = s.de := rfl
@[simp] theorem State.hl_writeFlags (s : State) (z n h c : Option Bool) : (s.writeFlags z n h c).hl = s.hl := rfl
@[simp] theorem State.getR8_setPc (s : State) (v : Word) (r : R8) : (s.setPc v).getR8 r = s.getR8 r := by cases r <;> rfl
@[simp] theorem State.bc_setPc (s : State) (v : Word) : (s.setPc v).bc = s.bc := rfl
@[simp] theorem State.de_setPc (s : State) (v : Word) : (s.setPc v).de = s.de := rfl
@[simp] theorem State.hl_setPc (s : State) (v : Word) : (s.setPc v).hl = s.hl := rfl
@[simp] theorem State.flagZ_setPc (s : State) (v : Word) : (s.setPc v).flagZ = s.flagZ := rfl
@[simp] theorem State.flagN_setPc (s : State) (v : Word) : (s.setPc v).flagN = s.flagN := rfl
@[simp] theorem State.flagH_setPc (s : State) (v : Word) : (s.setPc v).flagH = s.flagH := rfl
@[simp] theorem State.flagC_setPc (s : State) (v : Word) : (s.setPc v).flagC = s.flagC := rfl
@[simp] theorem State.getR8_setSp (s : State) (v : Word) (r : R8) : (s.setSp v).getR8 r = s.getR8 r := by cases r <;> rfl
@[simp] theorem State.bc_setSp (s : State) (v : Word) : (s.setSp v).bc = s.bc := rfl
@[simp] theorem State.de_setSp (s : State) (v : Word) : (s.setSp v).de = s.de := rfl
@[simp] theorem State.hl_setSp (s : State) (v : Word) : (s.setSp v).hl = s.hl := rfl
@[simp] theorem State.flagZ_setSp (s : State) (v : Word) : (s.setSp v).flagZ = s.flagZ := rfl
@[simp] theorem State.flagN_setSp (s : State) (v : Word) : (s.setSp v).flagN = s.flagN := rfl
@[simp] theorem State.flagH_setSp (s : State) (v : Word) : (s.setSp v).flagH = s.flagH := rfl
@[simp] theorem State.flagC_setSp (s : State) (v : Word) : (s.setSp v).flagC = s.flagC := rfl
@[simp] theorem State.getR8_setIme (s : State) (v : Bool) (r : R8) : (s.setIme v).getR8 r = s.getR8 r := by cases r <;> rfl
@[simp] theorem State.bc_setIme (s : State) (v : Bool) : (s.setIme v).bc = s.bc := rfl
@[simp] theorem State.de_setIme (s : State) (v : Bool) : (s.setIme v).de = s.de := rfl
@[simp] theorem State.hl_setIme (s : State) (v : Bool) : (s.setIme v).hl = s.hl := rfl
@[simp] theorem State.flagZ_setIme (s : State) (v : Bool) : (s.setIme v).flagZ = s.flagZ := rfl
@[simp] theorem State.flagN_setIme (s : State) (v : Bool) : (s.setIme v).flagN = s.flagN := rfl
@[simp] theorem State.flagH_setIme (s : State) (v : Bool) : (s.setIme v).flagH = s.flagH := rfl
@[simp] theorem State.flagC_setIme (s : State) (v : Bool) : (s.setIme v).flagC = s.flagC := rfl
@[simp] theorem State.getR8_report (s : State) (l : StepReport) (r : R8) : (s.report l).getR8 r = s.getR8 r := by cases r <;> rfl
@[simp] theorem State.bc_report (s : State) (l : StepReport) : (s.report l).bc = s.bc := rfl
@[simp] theorem State.de_report (s : State) (l : StepReport) : (s.report l).de = s.de := rfl
@[simp] theorem State.hl_report (s : State) (l : StepReport) : (s.report l).hl = s.hl := rfl
@[simp] theorem State.flagZ_report (s : State) (l : StepReport) : (s.report l).flagZ = s.flagZ := rfl
@[simp] theorem State.flagN_report (s : State) (l : StepReport) : (s.report l).flagN = s.flagN := rfl
@[simp] theorem State.flagH_report (s : State) (l : StepReport) : (s.report l).flagH = s.flagH := rfl
@[simp] theorem State.flagC_report (s : State) (l : StepReport) : (s.report l).flagC = s.flagC := rfl
@[simp] theorem State.getR8_memRead (s : State) (x : Addr) (r : R8) : (s.memRead x).2.getR8 r = s.getR8 r := by cases r <;> rfl
@[simp] theorem State.bc_memRead (s : State) (x : Addr) : (s.memRead x).2.bc = s.bc := rfl
@[simp] theorem State.de_memRead (s : State) (x : Addr) : (s.memRead x).2.de = s.de := rfl
@[simp] theorem State.hl_memRead (s : State) (x : Addr) : (s.memRead x).2.hl = s.hl := rfl
@[simp] theorem State.flagZ_memRead (s : State) (x : Addr) : (s.memRead x).2.flagZ = s.flagZ := rfl
@[simp] theorem State.flagN_memRead (s : State) (x : Addr) : (s.memRead x).2.flagN = s.flagN := rfl
@[simp] theorem State.flagH_memRead (s : State) (x : Addr) : (s.memRead x).2.flagH = s.flagH := rfl
@[simp] theorem State.flagC_memRead (s : State) (x : Addr) : (s.memRead x).2.flagC = s.flagC := rfl
@[simp] theorem State.getR8_memWrite (s : State) (x : Addr) (v : Byte) (r : R8) : (s.memWrite x v).getR8 r = s.getR8 r := by cases r <;> rfl
@[simp] theorem State.bc_memWrite (s : State) (x : Addr) (v : Byte) : (s.memWrite x v).bc = s.bc := rfl
@[simp] theorem State.de_memWrite (s : State) (x : Addr) (v : Byte) : (s.memWrite x v).de = s.de := rfl
@[simp] theorem State.hl_memWrite (s : State) (x : Addr) (v : Byte) : (s.memWrite x v).hl = s.hl := rfl
@[simp] theorem State.flagZ_memWrite (s : State) (x : Addr) (v : Byte) : (s.memWrite x v).flagZ = s.flagZ := rfl
@[simp] theorem State.flagN_memWrite (s : State) (x : Addr) (v : Byte) : (s.memWrite x v).flagN = s.flagN := rfl
@[simp] theorem State.flagH_memWrite (s : State) (x : Addr) (v : Byte) : (s.memWrite x v).flagH = s.flagH := rfl
@[simp] theorem State.flagC_memWrite (s : State) (x : Addr) (v : Byte) : (s.memWrite x v).flagC = s.flagC := rfl
@[simp] theorem State.getR8_memWrite16 (s : State) (x : Addr) (v : Word) (r : R8) : (s.memWrite16 x v).getR8 r = s.getR8 r := by simp [State.memWrite16]
@[simp] theorem State.bc_memWrite16 (s : State) (x : Addr) (v : Word) : (s.memWrite16 x v).bc = s.bc := by simp [State.memWrite16]
@[simp] theorem State.de_memWrite16 (s : State) (x : Addr) (v : Word) : (s.memWrite16 x v).de = s.de := by simp [State.memWrite16]
@[simp] theorem State.hl_memWrite16 (s : State) (x : Addr) (v : Word) : (s.memWrite16 x v).hl = s.hl := by simp [State.memWrite16]
@[simp] theorem State.flagZ_memWrite16 (s : State) (x : Addr) (v : Word) : (s.memWrite16 x v).flagZ = s.flagZ := by simp [State.memWrite16]
@[simp] theorem State.flagN_memWrite16 (s : State) (x : Addr) (v : Word) : (s.memWrite16 x v).flagN = s.flagN := by simp [State.memWrite16]
@[simp] theorem State.flagH_memWrite16 (s : State) (x : Addr) (v : Word) : (s.memWrite16 x v).flagH = s.flagH := by simp [State.memWrite16]
@[simp] theorem State.flagC_memWrite16 (s : State) (x : Addr) (v : Word) : (s.memWrite16 x v).flagC = s.flagC := by simp [State.memWrite16]
@[simp] theorem State.getR8_push16 (s : State) (v : Word) (r : R8) : (s.push16 v).getR8 r = s.getR8 r := by simp [State.push16_eq]
@[simp] theorem State.bc_push16 (s : State) (v : Word) : (s.push16 v).bc = s.bc := by simp [State.push16_eq]
@[simp] theorem State.de_push16 (s : State) (v : Word) : (s.push16 v).de = s.de := by simp [State.push16_eq]
@[simp] theorem State.hl_push16 (s : State) (v : Word) : (s.push16 v).hl = s.hl := by simp [State.push16_eq]
@[simp] theorem State.flagZ_push16 (s : State) (v : Word) : (s.push16 v).flagZ = s.flagZ := by simp [State.push16_eq]
@[simp] theorem State.flagN_push16 (s : State) (v : Word) : (s.push16 v).flagN = s.flagN := by simp [State.push16_eq]
@[simp] theorem State.flagH_push16 (s : State) (v : Word) : (s.push16 v).flagH = s.flagH := by simp [State.push16_eq]
@[simp] theorem State.flagC_push16 (s : State) (v : Word) : (s.push16 v).flagC = s.flagC := by simp [State.push16_eq]
@[simp] theorem State.getR8_pop16 (s : State) (r : R8) : s.pop16.2.getR8 r = s.getR8 r := by simp [State.pop16_eq]
@[simp] theorem State.bc_pop16 (s : State) : s.pop16.2.bc = s.bc := by simp [State.pop16_eq]
@[simp] theorem State.de_pop16 (s : State) : s.pop16.2.de = s.de := by simp [State.pop16_eq]
@[simp] theorem State.hl_pop16 (s : State) : s.pop16.2.hl = s.hl := by simp [State.pop16_eq]
@[simp] theorem State.flagZ_pop16 (s : State) : s.pop16.2.flagZ = s.flagZ := by simp [State.pop16_eq]
@[simp] theorem State.flagN_pop16 (s : State) : s.pop16.2.flagN = s.flagN := by simp [State.pop16_eq]
@[simp] theorem State.flagH_pop16 (s : State) : s.pop16.2.flagH = s.flagH := by simp [State.pop16_eq]
@[simp] theorem State.flagC_pop16 (s : State) : s.pop16.2.flagC = s.flagC := by simp [State.pop16_eq]
@[simp] theorem State.getR8_fetch8 (s : State) (r : R8) : s.fetch8.2.getR8 r = s.getR8 r := by cases r <;> rfl
@[simp] theorem State.bc_fetch8 (s : State) : s.fetch8.2.bc = s.bc := rfl
@[simp] theorem State.de_fetch8 (s : State) : s.fetch8.2.de = s.de := rfl
@[simp] theorem State.hl_fetch8 (s : State) : s.fetch8.2.hl = s.hl := rfl
@[simp] theorem State.flagZ_fetch8 (s : State) : s.fetch8.2.flagZ = s.flagZ := rfl
@[simp] theorem State.flagN_fetch8 (s : State) : s.fetch8.2.flagN = s.flagN := rfl
@[simp] theorem State.flagH_fetch8 (s : State) : s.fetch8.2.flagH = s.flagH := rfl
@[simp] theorem State.flagC_fetch8 (s : State) : s.fetch8.2.flagC = s.flagC := rfl
@[simp] theorem State.getR8_beginStep (s : State) (r : R8) : s.beginStep.getR8 r = s.getR8 r := by cases r <;> rfl
@[simp] theorem State.bc_beginStep (s : State) : s.beginStep.bc = s.bc := rfl
@[simp] theorem State.de_beginStep (s : State) : s.beginStep.de = s.de := rfl
@[simp] theorem State.hl_beginStep (s : State) : s.beginStep.hl = s.hl := rfl
@[simp] theorem State.flagZ_beginStep (s : State) : s.beginStep.flagZ = s.flagZ := rfl
@[simp] theorem State.flagN_beginStep (s : State) : s.beginStep.flagN = s.flagN := rfl
@[simp] theorem State.flagH_beginStep (s : State) : s.beginStep.flagH = s.flagH := rfl
@[simp] theorem State.flagC_beginStep (s : State) : s.beginStep.flagC = s.flagC := rfl
@[simp] theorem State.getR8_jumpTo (s : State) (x : Addr) (r : R8) : (jumpTo x s).getR8 r = s.getR8 r := by cases r <;> rfl
@[simp] theorem State.bc_jumpTo (s : State) (x : Addr) : (jumpTo x s).bc = s.bc := rfl
@[simp] theorem State.de_jumpTo (s : State) (x : Addr) : (jumpTo x s).de = s.de := rfl
@[simp] theorem State.hl_jumpTo (s : State) (x : Addr) : (jumpTo x s).hl = s.hl := rfl
@[simp] theorem State.flagZ_jumpTo (s : State) (x : Addr) : (jumpTo x s).flagZ = s.flagZ := rfl
@[simp] theorem State.flagN_jumpTo (s : State) (x : Addr) : (jumpTo x s).flagN = s.flagN := rfl
@[simp] theorem State.flagH_jumpTo (s : State) (x : Addr) : (jumpTo x s).flagH = s.flagH := rfl
@[simp] theorem State.flagC_jumpTo (s : State) (x : Addr) : (jumpTo x s).flagC = s.flagC := rfl
@[simp] theorem State.getR8_jumpRel (s : State) (e : Byte) (r : R8) : (jumpRel e s).getR8 r = s.getR8 r := by cases r <;> rfl
@[simp] theorem State.bc_jumpRel (s : State) (e : Byte) : (jumpRel e s).bc = s.bc := rfl
@[simp] theorem State.de_jumpRel (s : State) (e : Byte) : (jumpRel e s).de = s.de := rfl
@[simp] theorem State.hl_jumpRel (s : State) (e : Byte) : (jumpRel e s).hl = s.hl := rfl
@[simp] theorem State.flagZ_jumpRel (s : State) (e : Byte) : (jumpRel e s).flagZ = s.flagZ := rfl
@[simp] theorem State.flagN_jumpRel (s : State) (e : Byte) : (jumpRel e s).flagN = s.flagN := rfl
@[simp] theorem State.flagH_jumpRel (s : State) (e : Byte) : (jumpRel e s).flagH = s.flagH := rfl
@[simp] theorem State.flagC_jumpRel (s : State) (e : Byte) : (jumpRel e s).flagC = s.flagC := rfl
@[simp] theorem State.getR8_callTo (s : State) (x : Addr) (r : R8) : (callTo x s).getR8 r = s.getR8 r := by simp [callTo, jumpTo]
@[simp] theorem State.bc_callTo (s : State) (x : Addr) : (callTo x s).bc = s.bc := by simp [callTo, jumpTo]
@[simp] theorem State.de_callTo (s : State) (x : Addr) : (callTo x s).de = s.de := by simp [callTo, jumpTo]
@[simp] theorem State.hl_callTo (s : State) (x : Addr) : (callTo x s).hl = s.hl := by simp [callTo, jumpTo]
@[simp] theorem State.flagZ_callTo (s : State) (x : Addr) : (callTo x s).flagZ = s.flagZ := by simp [callTo, jumpTo]
@[simp] theorem State.flagN_callTo (s : State) (x : Addr) : (callTo x s).flagN = s.flagN := by simp [callTo, jumpTo]
@[simp] theorem State.flagH_callTo (s : State) (x : Addr) : (callTo x s).flagH = s.flagH := by simp [callTo, jumpTo]
@[simp] theorem State.flagC_callTo (s : State) (x : Addr) : (callTo x s).flagC = s.flagC := by simp [callTo, jumpTo]
@[simp] theorem State.getR8_returnFrom (s : State) (r : R8) : (returnFrom s).getR8 r = s.getR8 r := by simp [returnFrom, jumpTo]
@[simp] theorem State.bc_returnFrom (s : State) : (returnFrom s).bc = s.bc := by simp [returnFrom, jumpTo]
@[simp] theorem State.de_returnFrom (s : State) : (returnFrom s).de = s.de := by simp [returnFrom, jumpTo]
@[simp] theorem State.hl_returnFrom (s : State) : (returnFrom s).hl = s.hl := by simp [returnFrom, jumpTo]
@[simp] theorem State.flagZ_returnFrom (s : State) : (returnFrom s).flagZ = s.flagZ := by simp [returnFrom, jumpTo]
@[simp] theorem State.flagN_returnFrom (s : State) : (returnFrom s).flagN = s.flagN := by simp [returnFrom, jumpTo]
@[simp] theorem State.flagH_returnFrom (s : State) : (returnFrom s).flagH = s.flagH := by simp [returnFrom, jumpTo]
@[simp] theorem State.flagC_returnFrom (s : State) : (returnFrom s).flagC = s.flagC := by simp [returnFrom, jumpTo]
@[simp] theorem State.bc_setA (s : State) (v : Byte) : (s.setA v).bc = s.bc := rfl
@[simp] theorem State.de_setA (s : State) (v : Byte) : (s.setA v).de = s.de := rfl
@[simp] theorem State.hl_setA (s : State) (v : Byte) : (s.setA v).hl = s.hl := rfl
@[simp] theorem State.flagZ_setA (s : State) (v : Byte) : (s.setA v).flagZ = s.flagZ := rfl
@[simp] theorem State.flagN_setA (s : State) (v : Byte) : (s.setA v).flagN = s.flagN := rfl
@[simp] theorem State.flagH_setA (s : State) (v : Byte) : (s.setA v).flagH = s.flagH := rfl
@[simp] theorem State.flagC_setA (s : State) (v : Byte) : (s.setA v).flagC = s.flagC := rfl
@[simp] theorem State.flagZ_setBC (s : State) (v : Word) : (s.setBC v).flagZ = s.flagZ := rfl
@[simp] theorem State.flagN_setBC (s : State) (v : Word) : (s.setBC v).flagN = s.flagN := rfl
@[simp] theorem State.flagH_setBC (s : State) (v : Word) : (s.setBC v).flagH = s.flagH := rfl
@[simp] theorem State.flagC_setBC (s : State) (v : Word) : (s.setBC v).flagC = s.flagC := rfl
@[simp] theorem State.flagZ_setDE (s : State) (v : Word) : (s.setDE v).flagZ = s.flagZ := rfl
@[simp] theorem State.flagN_setDE (s : State) (v : Word) : (s.setDE v).flagN = s.flagN := rfl
@[simp] theorem State.flagH_setDE (s : State) (v : Word) : (s.setDE v).flagH = s.flagH := rfl
@[simp] theorem State.flagC_setDE (s : State) (v : Word) : (s.setDE v).flagC = s.flagC := rfl
@[simp] theorem State.flagZ_setHL (s : State) (v : Word) : (s.setHL v).flagZ = s.flagZ := rfl
@[simp] theorem State.flagN_setHL (s : State) (v : Word) : (s.setHL v).flagN = s.flagN := rfl
@[simp] theorem State.flagH_setHL (s : State) (v : Word) : (s.setHL v).flagH = s.flagH := rfl
@[simp] theorem State.flagC_setHL (s : State) (v : Word) : (s.setHL v).flagC = s.flagC := rfl
@[simp] theorem State.flagZ_setR8 (s : State) (q : R8) (v : Byte) : (s.setR8 q v).flagZ = s.flagZ := by cases q <;> rfl
@[simp] theorem State.flagN_setR8 (s : State) (q : R8) (v : Byte) : (s.setR8 q v).flagN = s.flagN := by cases q <;> rfl
@[simp] theorem State.flagH_setR8 (s : State) (q : R8) (v : Byte) : (s.setR8 q v).flagH = s.flagH := by cases q <;> rfl
@[simp] theorem State.flagC_setR8 (s : State) (q : R8) (v : Byte) : (s.setR8 q v).flagC = s.flagC := by cases q <;> rfl
@[simp] theorem State.flagZ_setR16 (s : State) (rr : R16) (v : Word) : (s.setR16 rr v).flagZ = s.flagZ := by cases rr <;> rfl
@[simp] theorem State.flagN_setR16 (s : State) (rr : R16) (v : Word) : (s.setR16 rr v).flagN = s.flagN := by cases rr <;> rfl
@[simp] theorem State.flagH_setR16 (s : State) (rr : R16) (v : Word) : (s.setR16 rr v).flagH = s.flagH := by cases rr <;> rfl
@[simp] theorem State.flagC_setR16 (s : State) (rr : R16) (v : Word) : (s.setR16 rr v).flagC = s.flagC := by cases rr <;> rfl
@[simp] theorem State.flagZ_writeFlags (s : State) (z n h c : Option Bool) : (s.writeFlags z n h c).flagZ = z.getD s.flagZ := by
  rw [State.flagZ, State.writeFlags_f]; exact packFlags_z _ _ _ _
@[simp] theorem State.flagN_writeFlags (s : State) (z n h c : Option Bool) : (s.writeFlags z n h c).flagN = n.getD s.flagN := by
  rw [State.flagN, State.writeFlags_f]; exact packFlags_n _ _ _ _
@[simp] theorem State.flagH_writeFlags (s : State) (z n h c : Option Bool) : (s.writeFlags z n h c).flagH = h.getD s.flagH := by
  rw [State.flagH, State.writeFlags_f]; exact packFlags_h _ _ _ _
@[simp] theorem State.flagC_writeFlags (s : State) (z n h c : Option Bool) : (s.writeFlags z n h c).flagC = c.getD s.flagC := by
  rw [State.flagC, State.writeFlags_f]; exact packFlags_c _ _ _ _

theorem joinBytes_toNat (h l : Byte) : (joinBytes h l).toNat = h.toNat * 256 + l.toNat := by
  have hl := l.isLt
  have : (h ++ l).toNat = h.toNat * 256 + l.toNat := by
    rw [BitVec.toNat_append, ← Nat.shiftLeft_add_eq_or_of_lt hl, Nat.shiftLeft_eq]
  exact this

theorem hiByte_toNat (v : Word) : (hiByte v).toNat = v.toNat / 256 := by
  have := v.isLt
  simp [hiByte, Nat.shiftRight_eq_div_pow]; omega

theorem loByte_toNat (v : Word) : (loByte v).toNat = v.toNat % 256 := by
  simp [loByte]

/-- Joining the two halves of a word gives the word back. -/
@[simp] theorem joinBytes_hi_lo (v : Word) : joinBytes (hiByte v) (loByte v) = v := by
  apply BitVec.eq_of_toNat_eq
  rw [joinBytes_toNat, hiByte_toNat, loByte_toNat]; omega

@[simp] theorem hiByte_joinBytes (h l : Byte) : hiByte (joinBytes h l) = h := by
  apply BitVec.eq_of_toNat_eq
  have := l.isLt
  rw [hiByte_toNat, joinBytes_toNat]; omega

@[simp] theorem loByte_joinBytes (h l : Byte) : loByte (joinBytes h l) = l := by
  apply BitVec.eq_of_toNat_eq
  have := l.isLt
  rw [loByte_toNat, joinBytes_toNat]; omega

@[simp] theorem State.getR16_setR16_same (s : State) (rr : R16) (v : Word) : (s.setR16 rr v).getR16 rr = v := by
  cases rr <;> simp [State.setR16, State.getR16, State.bc, State.de, State.hl]

/-- An assembled word split again, and back (R66, R67). -/
@[simp] theorem assemble_split (bo : ByteOrder) (v : Word) : assemble bo (lowerByte bo v) (upperByte bo v) = v := by
  cases bo <;> simp [assemble, lowerByte, upperByte]

@[simp] theorem lowerByte_assemble (bo : ByteOrder) (x y : Byte) : lowerByte bo (assemble bo x y) = x := by
  cases bo <;> simp [assemble, lowerByte]

@[simp] theorem upperByte_assemble (bo : ByteOrder) (x y : Byte) : upperByte bo (assemble bo x y) = y := by
  cases bo <;> simp [assemble, upperByte]

end Sys2Proof.Machine
end

