-- ==== Sys2Proof/Laws/Memory.lean ====
section
/-! SUPPORT. Laws/Memory: reading after writing, and that every memory operation keeps the canonical form. -/

namespace Sys2Proof.Machine

theorem Memory.read_write_other (m : Memory) {a b : Nat} (v : Byte) (h : b ≠ a) :
    (m.write a v).read b = m.read b := by
  induction m with
  | nil =>
    simp only [Memory.write]
    split
    · rfl
    · simp [Memory.read, Ne.symm h]
  | cons e m ih =>
    obtain ⟨k, w⟩ := e
    simp only [Memory.write]
    split
    · split
      · rfl
      · simp [Memory.read, Ne.symm h]
    · split
      · next _ hk =>
        subst hk
        split <;> simp [Memory.read, Ne.symm h]
      · simp [Memory.read, ih]

/-- Below the lowest listed address every byte reads as unlisted. -/
theorem Memory.read_below {lo : Nat} {m : Memory} (hw : Memory.wfFrom lo m = true) {a : Nat} (ha : a < lo) :
    m.read a = Memory.unlisted := by
  induction m generalizing lo with
  | nil => rfl
  | cons e m ih =>
    obtain ⟨k, w⟩ := e
    simp only [Memory.wfFrom, Bool.and_eq_true, decide_eq_true_eq] at hw
    have hne : k ≠ a := by omega
    simp only [Memory.read, hne, if_false]
    exact ih hw.2 (by omega)

theorem Memory.read_write_same_from {lo : Nat} {m : Memory} (hw : Memory.wfFrom lo m = true) (a : Nat) (v : Byte) :
    (m.write a v).read a = v := by
  induction m generalizing lo with
  | nil =>
    simp only [Memory.write]
    split
    · next h => simp [Memory.read, h]
    · simp [Memory.read]
  | cons e m ih =>
    obtain ⟨k, w⟩ := e
    simp only [Memory.wfFrom, Bool.and_eq_true, decide_eq_true_eq] at hw
    simp only [Memory.write]
    split
    · next hlt =>
      split
      · next hv =>
        have hne : k ≠ a := by omega
        rw [Memory.read, if_neg hne, hv]
        exact Memory.read_below hw.2 (by omega)
      · simp [Memory.read]
    · split
      · next hk =>
        subst hk
        split
        · next hv => rw [hv]; exact Memory.read_below hw.2 (by omega)
        · simp [Memory.read]
      · next hne =>
        have hne' : k ≠ a := fun h => hne h.symm
        rw [Memory.read, if_neg hne']
        exact ih hw.2

/-- In canonical memory a byte written is the byte read. -/
theorem Memory.read_write_same {m : Memory} (hw : m.wf = true) (a : Nat) (v : Byte) : (m.write a v).read a = v :=
  Memory.read_write_same_from hw a v

theorem Memory.wfFrom_mono {lo lo' : Nat} {m : Memory} (h : lo' ≤ lo) (hw : Memory.wfFrom lo m = true) :
    Memory.wfFrom lo' m = true := by
  cases m with
  | nil => rfl
  | cons e m =>
    obtain ⟨k, w⟩ := e
    simp only [Memory.wfFrom, Bool.and_eq_true, decide_eq_true_eq] at hw ⊢
    exact ⟨⟨⟨by omega, hw.1.1.2⟩, hw.1.2⟩, hw.2⟩

theorem Memory.wfFrom_write {lo a : Nat} {m : Memory} (hw : Memory.wfFrom lo m = true) (hlo : lo ≤ a)
    (ha : a < 65536) (v : Byte) : Memory.wfFrom lo (m.write a v) = true := by
  induction m generalizing lo with
  | nil =>
    simp only [Memory.write]
    split
    · rfl
    · next hv => simp [Memory.wfFrom, hlo, ha, hv]
  | cons e m ih =>
    obtain ⟨k, w⟩ := e
    simp only [Memory.wfFrom, Bool.and_eq_true, decide_eq_true_eq] at hw
    obtain ⟨⟨⟨h1, h2⟩, h3⟩, h4⟩ := hw
    simp only [Memory.write]
    split
    · next hlt =>
      split
      · simp [Memory.wfFrom, h1, h2, h3, h4]
      · next hv => simp [Memory.wfFrom, hlo, ha, hv, h2, h3, h4]; omega
    · split
      · next hk =>
        subst hk
        split
        · exact Memory.wfFrom_mono (by omega) h4
        · next hv => simp [Memory.wfFrom, hlo, ha, hv, h4]
      · simp only [Memory.wfFrom, Bool.and_eq_true, decide_eq_true_eq]
        exact ⟨⟨⟨h1, h2⟩, h3⟩, ih h4 (by omega)⟩

/-- A write inside the address space keeps the canonical form. -/
theorem Memory.wf_write {m : Memory} (hw : m.wf = true) (a : Addr) (v : Byte) : (m.write a.toNat v).wf = true :=
  Memory.wfFrom_write hw (Nat.zero_le _) a.isLt v

/-- Placing bytes keeps the canonical form. -/
theorem placeBytes_wf {m : Memory} (hw : m.wf = true) (a : Addr) (bs : List Byte) : (placeBytes m a bs).wf = true := by
  induction bs generalizing m a with
  | nil => exact hw
  | cons b bs ih => exact ih (Memory.wf_write hw a b) (a + 1)

/-! ### Bus writes -/

/-- A bus write leaves every other byte. -/
theorem State.memWrite_read_other (s : State) {a b : Addr} (v : Byte) (h : b ≠ a) :
    (s.memWrite a v).mem.read b.toNat = s.mem.read b.toNat := by
  have hn : b.toNat ≠ a.toNat := fun e => h (BitVec.eq_of_toNat_eq e)
  unfold State.memWrite
  cases s.cfg.bus <;> simp [Memory.read_write_other _ _ hn]

/-- On FlatBus in canonical form the byte written is the byte read. -/
theorem State.memWrite_read_same (s : State) (a : Addr) (v : Byte) (hb : s.cfg.bus = .flat) (hw : s.mem.wf = true) :
    (s.memWrite a v).mem.read a.toNat = v := by
  simp [State.memWrite, hb, Memory.read_write_same hw]

/-- A bus write keeps the canonical form, whichever the bus. -/
theorem State.memWrite_wf (s : State) (a : Addr) (v : Byte) (hw : s.mem.wf = true) : (s.memWrite a v).mem.wf = true := by
  unfold State.memWrite
  cases s.cfg.bus
  · exact Memory.wf_write hw a v
  · exact hw

theorem State.memWrite16_wf (s : State) (a : Addr) (v : Word) (hw : s.mem.wf = true) :
    (s.memWrite16 a v).mem.wf = true :=
  State.memWrite_wf _ _ _ (State.memWrite_wf _ _ _ hw)

/-- A 16-bit store leaves every byte but its two. -/
theorem State.memWrite16_read_other (s : State) {a b : Addr} (v : Word) (h0 : b ≠ a) (h1 : b ≠ a + 1) :
    (s.memWrite16 a v).mem.read b.toNat = s.mem.read b.toNat := by
  unfold State.memWrite16
  rw [State.memWrite_read_other _ _ h1, State.memWrite_read_other _ _ h0]

/-- A 16-bit store on FlatBus: the lower byte at the address, the upper byte at the next. -/
theorem State.memWrite16_read (s : State) (a : Addr) (v : Word) (hb : s.cfg.bus = .flat) (hw : s.mem.wf = true) :
    (s.memWrite16 a v).mem.read a.toNat = lowerByte s.cfg.byteOrder v ∧
      (s.memWrite16 a v).mem.read (a + 1).toNat = upperByte s.cfg.byteOrder v := by
  unfold State.memWrite16
  constructor
  · rw [State.memWrite_read_other _ _ (by simp), State.memWrite_read_same _ _ _ hb hw]
  · rw [State.memWrite_read_same _ _ _ (by simpa using hb) (State.memWrite_wf _ _ _ hw)]

theorem State.push16_wf (s : State) (v : Word) (hw : s.mem.wf = true) : (s.push16 v).mem.wf = true := by
  simp only [State.push16]
  exact State.memWrite_wf _ _ _ (State.memWrite_wf _ _ _ hw)

/-- A push leaves every byte but the two below the old SP. -/
theorem State.push16_read_other (s : State) {b : Addr} (v : Word) (h0 : b ≠ s.sp - 1) (h1 : b ≠ s.sp - 1 - 1) :
    (s.push16 v).mem.read b.toNat = s.mem.read b.toNat := by
  simp only [State.push16, State.memWrite_sp]
  rw [State.memWrite_read_other _ _ (by simpa using h1)]
  exact State.memWrite_read_other (s.setSp (s.sp - 1)) _ h0

/-- A push on FlatBus leaves the image of a 16-bit store at the new SP (R300). -/
theorem State.push16_read (s : State) (v : Word) (hb : s.cfg.bus = .flat) (hw : s.mem.wf = true) :
    (s.push16 v).mem.read (s.sp - 1 - 1).toNat = lowerByte s.cfg.byteOrder v ∧
      (s.push16 v).mem.read (s.sp - 1).toNat = upperByte s.cfg.byteOrder v := by
  simp only [State.push16, State.memWrite_sp]
  constructor
  · exact State.memWrite_read_same _ _ _ (by simpa using hb) (State.memWrite_wf _ _ _ hw)
  · have hne : s.sp - 1 ≠ s.sp - 1 - 1 := by bv_omega
    rw [State.memWrite_read_other _ _ (by simpa using hne)]
    exact State.memWrite_read_same (s.setSp (s.sp - 1)) _ _ hb hw

end Sys2Proof.Machine
end

