-- ==== Sys2Proof/Laws/Ops.lean ====
section
/-! SUPPORT. Laws/Ops: one lemma for each shared operation that says what it does, for proofs to cite. -/

namespace Sys2Proof.Machine

/-! ### Completing -/

/-- `done` always completes, and changes `last` alone. -/
@[simp] theorem done_eq_next {m : Nat} {s t : State} :
    done m s = .next t ↔ t = s.report (.retired m (s.cfg.tPerM * m)) := by
  simp [done, eq_comm]

/-- `doneHalted` always completes, and changes `last` alone. -/
@[simp] theorem doneHalted_eq_next {k : HaltKind} {m : Nat} {s t : State} :
    doneHalted k m s = .next t ↔ t = s.report (.halted k m (s.cfg.tPerM * m)) := by
  simp [doneHalted, eq_comm]

/-- The stop of an invalid byte answers no next state. -/
@[simp] theorem invalidPrimary_ne_next (b : Byte) (s t : State) : invalidPrimary b s = .next t ↔ False := by
  simp [invalidPrimary, raiseInvalidOpcode]

/-! ### Words and pairs -/

theorem State.af_toNat (s : State) : s.af.toNat = s.a.toNat * 256 + s.f.toNat := joinBytes_toNat _ _
theorem State.bc_toNat (s : State) : s.bc.toNat = s.b.toNat * 256 + s.c.toNat := joinBytes_toNat _ _
theorem State.de_toNat (s : State) : s.de.toNat = s.d.toNat * 256 + s.e.toNat := joinBytes_toNat _ _
theorem State.hl_toNat (s : State) : s.hl.toNat = s.h.toNat * 256 + s.l.toNat := joinBytes_toNat _ _

@[simp] theorem State.setBC_bc (s : State) (v : Word) : (s.setBC v).bc = v := joinBytes_hi_lo v
@[simp] theorem State.setDE_de (s : State) (v : Word) : (s.setDE v).de = v := joinBytes_hi_lo v
@[simp] theorem State.setHL_hl (s : State) (v : Word) : (s.setHL v).hl = v := joinBytes_hi_lo v

/-- Writing one 16-bit register leaves the other three (R23). -/
theorem State.getR16_setR16_other (s : State) {q rr : R16} (v : Word) (h : q ≠ rr) :
    (s.setR16 rr v).getR16 q = s.getR16 q := by
  cases q <;> cases rr <;> first | rfl | exact absurd rfl h

/-- The two bytes in address order as one number (R66, R301). -/
theorem assemble_toNat (bo : ByteOrder) (b0 b1 : Byte) :
    (assemble bo b0 b1).toNat = wordOf bo b0 b1 := by
  cases bo <;> simp [assemble, wordOf, joinBytes_toNat]

/-- The byte at the lower and at the higher address (R67, R300). -/
theorem split_eq (bo : ByteOrder) (v : Word) :
    (lowerByte bo v, upperByte bo v) = inAddressOrder bo v := by
  cases bo <;> rfl

/-- The page-0xFF address as a sum (R97). -/
theorem highPage_eq (n : Byte) : highPage n = BitVec.ofNat 16 (0xFF00 + n.toNat) := by
  apply BitVec.eq_of_toNat_eq
  have := n.isLt
  rw [highPage, joinBytes_toNat]
  simp
  omega

/-- A signed displacement added to a word (R97). -/
theorem add_sext16 (v : Word) (e : Byte) : v + sext16 e = BitVec.ofInt 16 (v.toNat + e.toInt) := by
  apply BitVec.eq_of_toInt_eq
  have h1 : (sext16 e).toInt = e.toInt := by
    simpa [sext16, BitVec.toInt_signExtend] using BitVec.toInt_bmod_cancel e
  rw [BitVec.toInt_add, h1, BitVec.toInt_ofInt, BitVec.toInt_eq_toNat_bmod]
  simp

theorem add_sext16_toNat (v : Word) (e : Byte) : ((v + sext16 e).toNat : Int) = ((v.toNat : Int) + e.toInt) % 65536 := by
  rw [add_sext16, BitVec.toNat_ofInt]
  omega

/-! ### Stack -/

/-- The value popped: the two bytes the bus answers, in address order (R301). -/
theorem State.pop16_value (s : State) :
    s.pop16.1 = assemble s.cfg.byteOrder (s.busValue s.sp) ((s.memRead s.sp).2.busValue (s.sp + 1)) := rfl

theorem State.pop16_accesses (s : State) :
    s.pop16.2.accesses = s.accesses ++
      [⟨.read, s.sp, s.busValue s.sp⟩, ⟨.read, s.sp + 1, (s.memRead s.sp).2.busValue (s.sp + 1)⟩] := by
  show (s.accesses ++ [_]) ++ [_] = _
  simp
  rfl

/-! ### What is behind the bus (R61 to R64) -/

/-- Accesses one after the other compose. -/
theorem BusTook.append {k : BusKind} {l₂ : List Access} {c d : Memory × Nat} :
    ∀ {l₁ : List Access} {b : Memory × Nat}, BusTook k b l₁ c → BusTook k c l₂ d → BusTook k b (l₁ ++ l₂) d
  | [], _, h₁, h₂ => h₁ ▸ h₂
  | _ :: _, _, h₁, h₂ => ⟨h₁.1, h₁.2.append h₂⟩

/-- A change of neither accesses nor what is behind the bus. -/
theorem BusFollows.of_eq {s t : State} (ha : t.accesses = s.accesses) (hm : t.mem = s.mem)
    (hb : t.busState = s.busState) : BusFollows s t :=
  ⟨[], by simp [Accessed, ha], by simp [BusTook, State.behindBus, hm, hb]⟩

theorem BusFollows.trans {s t u : State} (h₁ : BusFollows s t) (hc : t.cfg.bus = s.cfg.bus) (h₂ : BusFollows t u) :
    BusFollows s u := by
  obtain ⟨l₁, a₁, b₁⟩ := h₁
  obtain ⟨l₂, a₂, b₂⟩ := h₂
  exact ⟨l₁ ++ l₂, by rw [Accessed, a₂, a₁, List.append_assoc], b₁.append (hc ▸ b₂)⟩

/-- A bus read moves the bus by that read. -/
theorem State.memRead_follows (s : State) (a : Addr) : BusFollows s (s.memRead a).2 := by
  refine ⟨[⟨.read, a, s.busValue a⟩], rfl, fun _ => ?_, ?_⟩
  · unfold State.busValue
    cases s.cfg.bus <;> rfl
  · simp only [State.behindBus, State.memRead, State.busAfterRead]
    cases s.cfg.bus <;> rfl

/-- A bus write moves the bus by that write. -/
theorem State.memWrite_follows (s : State) (a : Addr) (v : Byte) : BusFollows s (s.memWrite a v) := by
  refine ⟨[⟨.write, a, v⟩], rfl, by simp, ?_⟩
  simp only [State.behindBus, State.memWrite, State.busAfterWrite]
  cases s.cfg.bus <;> rfl

/-- A 16-bit store, lower address first (R67). -/
theorem State.memWrite16_follows (s : State) (a : Addr) (v : Word) : BusFollows s (s.memWrite16 a v) :=
  (s.memWrite_follows _ _).trans rfl (State.memWrite_follows _ _ _)

/-- A push, higher address first (R300). -/
theorem State.push16_follows (s : State) (v : Word) : BusFollows s (s.push16 v) :=
  ((s.setSp (s.sp - 1)).memWrite_follows _ _).trans rfl
    (((s.setSp (s.sp - 1)).memWrite _ _).setSp _ |>.memWrite_follows _ _)

/-- A pop, lower address first (R301). -/
theorem State.pop16_follows (s : State) : BusFollows s s.pop16.2 :=
  (s.memRead_follows s.sp).trans rfl (((s.memRead s.sp).2.setSp (s.sp + 1)).memRead_follows (s.sp + 1))

/-- A fetch of one byte (R95). -/
theorem State.fetch8_follows (s : State) : BusFollows s s.fetch8.2 := s.memRead_follows s.pc

/-! ### Bytes -/

/-- The mask of R26 on a byte as a number: the low nibble cleared. -/
theorem mask_low_nibble (n : Nat) : n % 256 &&& 240 = n % 256 / 16 * 16 := by
  have h : ∀ k : Fin 256, k.val &&& 240 = k.val / 16 * 16 := by decide +kernel
  exact h ⟨n % 256, Nat.mod_lt _ (by decide)⟩

theorem inc16_toNat (v : Word) : (inc16 v).toNat = (v.toNat + 1) % 65536 := by simp [inc16]

theorem dec16_toNat (v : Word) : (dec16 v).toNat = (v.toNat + 65535) % 65536 := by
  simp [dec16, BitVec.toNat_sub]; omega

end Sys2Proof.Machine
end

