-- ==== Sys2Proof/Laws/Fetch.lean ====
section
/-! SUPPORT. Laws/Fetch: the decoder on a first byte, what a fetch reads and leaves, and a step in those words. -/

namespace Sys2Proof.Machine

/-! ### The decoder on one first byte -/

/-- Every byte is a numeral, for case analysis over the 256 of them. -/
theorem byte_cases (op : Byte) : ∃ k, k < 256 ∧ op = BitVec.ofNat 8 k := ⟨op.toNat, op.isLt, by simp⟩

/-- The secondary table has two-byte instructions only (R92, R102). -/
theorem decodeSecondary_shape :
    ∀ op : Byte, (decodeSecondary op).length = 2 ∧ (decodeSecondary op).wellFormed = true := by
  decide +kernel

/-- What an operand byte cannot change in quadrant 0 (R90, R98). -/
theorem decodeQuadrant0_shape (op x : Byte) (d : Word) :
    (decodeQuadrant0 op x d).length = (decodeQuadrant0 op 0#8 0#16).length ∧
      (decodeQuadrant0 op x d).wellFormed = true ∧
      ((decodeQuadrant0 op x d).length = 1 → decodeQuadrant0 op x d = decodeQuadrant0 op 0#8 0#16) ∧
      ((decodeQuadrant0 op x d).length = 2 → decodeQuadrant0 op x d = decodeQuadrant0 op x 0#16) := by
  unfold decodeQuadrant0
  repeat' split
  all_goals simp [Instr.length, Instr.wellFormed]

/-- What an operand byte cannot change in quadrant 3 (R90, R101). -/
theorem decodeQuadrant3_shape (op x : Byte) (d : Word) :
    (decodeQuadrant3 op x d).length = (decodeQuadrant3 op 0#8 0#16).length ∧
      (decodeQuadrant3 op x d).wellFormed = true ∧
      ((decodeQuadrant3 op x d).length = 1 → decodeQuadrant3 op x d = decodeQuadrant3 op 0#8 0#16) ∧
      ((decodeQuadrant3 op x d).length = 2 → decodeQuadrant3 op x d = decodeQuadrant3 op x 0#16) := by
  have h := decodeSecondary_shape x
  have h0 := (decodeSecondary_shape 0#8).1
  unfold decodeQuadrant3
  repeat' split
  all_goals first
    | (simp [h, h0]; done)
    | simp [Instr.length, Instr.wellFormed]

/-- Quadrants 1 and 2 have one-byte instructions only (R99, R100). -/
theorem decodeQuadrants_one_byte (op : Byte) :
    ((decodeQuadrant1 op).length = 1 ∧ (decodeQuadrant1 op).wellFormed = true) ∧
      ((decodeQuadrant2 op).length = 1 ∧ (decodeQuadrant2 op).wellFormed = true) := by
  unfold decodeQuadrant1 decodeQuadrant2
  constructor <;> split <;> exact ⟨rfl, rfl⟩

/-- What the operand bytes cannot change: the length, being an instruction, and all of it where the format is too short
to have them (R90, R106). -/
theorem decodeInstr_shape (bo : ByteOrder) (op x y : Byte) :
    (decodeInstr bo op x y).length = (decodeInstr .le op 0#8 0#8).length ∧
      (decodeInstr bo op x y).wellFormed = true ∧
      ((decodeInstr bo op x y).length = 1 → decodeInstr bo op x y = decodeInstr bo op 0#8 0#8) ∧
      ((decodeInstr bo op x y).length = 2 → decodeInstr bo op x y = decodeInstr bo op x 0#8) := by
  have q := decodeQuadrants_one_byte op
  unfold decodeInstr
  split
  · obtain ⟨a, b, c, d⟩ := decodeQuadrant0_shape op x (assemble bo x y)
    refine ⟨a.trans (decodeQuadrant0_shape op 0#8 _).1.symm, b, fun h => ?_, fun h => ?_⟩
    · rw [c h, (decodeQuadrant0_shape op 0#8 (assemble bo 0#8 0#8)).2.2.1]
      rw [(decodeQuadrant0_shape op 0#8 _).1, ← a, h]
    · rw [d h, (decodeQuadrant0_shape op x (assemble bo x 0#8)).2.2.2]
      rw [(decodeQuadrant0_shape op x _).1, ← a, h]
  · exact ⟨rfl, q.1.2, fun _ => rfl, fun _ => rfl⟩
  · exact ⟨rfl, q.2.2, fun _ => rfl, fun _ => rfl⟩
  · obtain ⟨a, b, c, d⟩ := decodeQuadrant3_shape op x (assemble bo x y)
    refine ⟨a.trans (decodeQuadrant3_shape op 0#8 _).1.symm, b, fun h => ?_, fun h => ?_⟩
    · rw [c h, (decodeQuadrant3_shape op 0#8 (assemble bo 0#8 0#8)).2.2.1]
      rw [(decodeQuadrant3_shape op 0#8 _).1, ← a, h]
    · rw [d h, (decodeQuadrant3_shape op x (assemble bo x 0#8)).2.2.2]
      rw [(decodeQuadrant3_shape op x _).1, ← a, h]

/-- The length of a decoded instruction is that of its first byte (R106). -/
theorem decodeInstr_length (bo : ByteOrder) (op x y : Byte) : (decodeInstr bo op x y).length = lengthOfOpcode op :=
  (decodeInstr_shape bo op x y).1.trans
    ((show ∀ b : Byte, (decodeInstr .le b 0#8 0#8).length = lengthOfOpcode b by decide +kernel) op)

/-- Every decoded instruction is well-formed: the bare prefix entry is never decoded (R355). -/
theorem decodeInstr_wellFormed (bo : ByteOrder) (op x y : Byte) : (decodeInstr bo op x y).wellFormed = true :=
  (decodeInstr_shape bo op x y).2.1

theorem decodeInstr_ne_prefixCB (bo : ByteOrder) (op x y : Byte) : decodeInstr bo op x y ≠ .prefixCB := by
  intro e
  have h := decodeInstr_wellFormed bo op x y
  rw [e] at h
  cases h

/-- R106: a format of one byte looks at no operand byte. -/
theorem decodeInstr_of_length_one (bo : ByteOrder) {op : Byte} (h : lengthOfOpcode op = 1) (x y : Byte) :
    decodeInstr bo op x y = decodeInstr bo op 0 0 :=
  (decodeInstr_shape bo op x y).2.2.1 ((decodeInstr_length bo op x y).trans h)

/-- R106: a format of two bytes looks at one operand byte. -/
theorem decodeInstr_of_length_two (bo : ByteOrder) {op : Byte} (h : lengthOfOpcode op = 2) (x y : Byte) :
    decodeInstr bo op x y = decodeInstr bo op x 0 :=
  (decodeInstr_shape bo op x y).2.2.2 ((decodeInstr_length bo op x y).trans h)

/-- R106: lengths are 1, 2 or 3. -/
theorem lengthOfOpcode_cases (op : Byte) : lengthOfOpcode op = 1 ∨ lengthOfOpcode op = 2 ∨ lengthOfOpcode op = 3 := by
  unfold lengthOfOpcode
  split
  · exact .inr (.inr rfl)
  · split
    · exact .inr (.inl rfl)
    · exact .inl rfl

/-! ### Fetching -/

/-- What a fetch finds depends on PC, the bus and the parameters alone. -/
theorem State.fetchBus_congr {s t : State} (hc : t.cfg = s.cfg) (hp : t.pc = s.pc) (hb : t.busState = s.busState)
    (k : Nat) : t.fetchBus k = s.fetchBus k := by
  induction k with
  | zero => exact hb
  | succ k ih => simp only [State.fetchBus, State.busAfterRead, hc, hp, ih]

theorem State.fetchByte_congr {s t : State} (hc : t.cfg = s.cfg) (hm : t.mem = s.mem) (hp : t.pc = s.pc)
    (hb : t.busState = s.busState) (k : Nat) : t.fetchByte k = s.fetchByte k := by
  simp only [State.fetchByte, State.busValue, hc, hm, hp, State.fetchBus_congr hc hp hb]

/-- What the bus answers to the `k`-th read after `k` earlier ones. -/
theorem State.fetchByte_eq (s : State) (k : Nat) (t : State) (hc : t.cfg = s.cfg) (hm : t.mem = s.mem)
    (hr : t.busState = s.fetchBus k) : t.busValue (s.pc + BitVec.ofNat 16 k) = s.fetchByte k := by
  simp only [State.busValue, State.fetchByte, hc, hm, hr]

/-- The state of the bus after the `k`-th read. -/
theorem State.fetchBus_succ (s : State) (k : Nat) (t : State) (hc : t.cfg = s.cfg) (hr : t.busState = s.fetchBus k) :
    t.busAfterRead (s.pc + BitVec.ofNat 16 k) = s.fetchBus (k + 1) := by
  simp only [State.busAfterRead, State.fetchBus, hc, hr]

/-- The last outcome and the record of accesses play no part in a fetch (R33). -/
theorem State.afterFetch_of_last (s : State) (r : StepReport) (l : List Access) (n : Nat) :
    ({ s with last := r, accesses := l } : State).afterFetch n = (s.afterFetch n).report r := by
  have hb := State.fetchBus_congr (s := s) (t := { s with last := r, accesses := l }) rfl rfl rfl
  have hf := State.fetchByte_congr (s := s) (t := { s with last := r, accesses := l }) rfl rfl rfl rfl
  simp only [State.afterFetch, State.report, hb, hf]

/-- IME plays no part in a fetch (R31). -/
theorem State.afterFetch_of_ime (s : State) (b : Bool) (n : Nat) :
    ({ s with ime := b } : State).afterFetch n = (s.afterFetch n).setIme b := by
  have hb := State.fetchBus_congr (s := s) (t := { s with ime := b }) rfl rfl rfl
  have hf := State.fetchByte_congr (s := s) (t := { s with ime := b }) rfl rfl rfl rfl
  simp only [State.afterFetch, State.setIme, hb, hf]

/-- A fetch answers the instruction of the bytes at PC, and the state with as many bytes fetched as its first byte
says (R371 steps 1 to 3, R94, R106). -/
theorem State.fetchInstr_eq (s : State) :
    s.beginStep.fetchInstr =
      (decodeInstr s.cfg.byteOrder (s.fetchByte 0) (s.fetchByte 1) (s.fetchByte 2),
        s.afterFetch (lengthOfOpcode (s.fetchByte 0))) := by
  have e2 : s.pc + 1#16 + 1#16 = s.pc + 2#16 := by bv_omega
  have e3 : s.pc + 2#16 + 1#16 = s.pc + 3#16 := by bv_omega
  have b1 : s.beginStep.busAfterRead s.pc = s.fetchBus 1 := by
    simpa using s.fetchBus_succ 0 s.beginStep rfl rfl
  have b2 : s.beginStep.fetch8.2.busAfterRead (s.pc + 1#16) = s.fetchBus 2 :=
    s.fetchBus_succ 1 s.beginStep.fetch8.2 rfl b1
  have b3 : s.beginStep.fetch8.2.fetch8.2.busAfterRead (s.pc + 2#16) = s.fetchBus 3 :=
    s.fetchBus_succ 2 s.beginStep.fetch8.2.fetch8.2 rfl b2
  have h0 : s.beginStep.busValue s.pc = s.fetchByte 0 := by
    simpa using s.fetchByte_eq 0 s.beginStep rfl rfl rfl
  have h1 : s.beginStep.fetch8.2.busValue (s.pc + 1#16) = s.fetchByte 1 :=
    s.fetchByte_eq 1 s.beginStep.fetch8.2 rfl rfl b1
  have h2 : s.beginStep.fetch8.2.fetch8.2.busValue (s.pc + 2#16) = s.fetchByte 2 :=
    s.fetchByte_eq 2 s.beginStep.fetch8.2.fetch8.2 rfl rfl b2
  rcases lengthOfOpcode_cases (s.fetchByte 0) with h | h | h
  · have hu : s.beginStep.fetchInstr = (decodeInstr s.cfg.byteOrder (s.fetchByte 0) 0 0, s.beginStep.fetch8.2) := by
      simp [State.fetchInstr, h0, h]
    rw [hu, h, decodeInstr_of_length_one _ h (s.fetchByte 1) (s.fetchByte 2)]
    refine Prod.ext rfl (State.ext ?_ ?_ ?_ ?_ ?_ ?_ ?_ ?_ ?_ ?_ ?_ ?_ ?_ ?_ ?_ ?_ ?_) <;>
      simp [State.afterFetch, List.range_succ, h0, b1]
  · have hu : s.beginStep.fetchInstr =
        (decodeInstr s.cfg.byteOrder (s.fetchByte 0) (s.fetchByte 1) 0, s.beginStep.fetch8.2.fetch8.2) := by
      simp [State.fetchInstr, h0, h, h1]
    rw [hu, h, decodeInstr_of_length_two _ h (s.fetchByte 1) (s.fetchByte 2)]
    refine Prod.ext rfl (State.ext ?_ ?_ ?_ ?_ ?_ ?_ ?_ ?_ ?_ ?_ ?_ ?_ ?_ ?_ ?_ ?_ ?_) <;>
      simp [State.afterFetch, List.range_succ, h0, h1, e2, b2]
  · have hu : s.beginStep.fetchInstr =
        (decodeInstr s.cfg.byteOrder (s.fetchByte 0) (s.fetchByte 1) (s.fetchByte 2),
          s.beginStep.fetch8.2.fetch8.2.fetch8.2) := by
      simp [State.fetchInstr, h0, h, h1, e2, h2]
    rw [hu, h]
    refine Prod.ext rfl (State.ext ?_ ?_ ?_ ?_ ?_ ?_ ?_ ?_ ?_ ?_ ?_ ?_ ?_ ?_ ?_ ?_ ?_) <;>
      simp [State.afterFetch, List.range_succ, h0, h1, h2, e2, e3, b3]

/-- A fetch moves what is behind the bus by its own reads (R77). -/
theorem State.fetchInstr_follows (s : State) : BusFollows s s.fetchInstr.2 := by
  have h1 := s.fetch8_follows
  have h2 := h1.trans rfl s.fetch8.2.fetch8_follows
  have h3 := h2.trans rfl s.fetch8.2.fetch8.2.fetch8_follows
  unfold State.fetchInstr
  simp only []
  split
  · exact h1
  · exact h2
  · exact h3

/-- The instruction the next step runs, from the bytes at PC. -/
theorem State.nextInstr_eq (s : State) :
    s.nextInstr = decodeInstr s.cfg.byteOrder (s.fetchByte 0) (s.fetchByte 1) (s.fetchByte 2) := by
  rw [State.nextInstr, s.fetchInstr_eq]

/-- Its length is that of the byte at PC. -/
theorem State.nextInstr_length (s : State) : s.nextInstr.length = lengthOfOpcode (s.fetchByte 0) := by
  rw [s.nextInstr_eq, decodeInstr_length]

/-- What the fetch leaves. -/
theorem State.fetchInstr_state (s : State) : s.beginStep.fetchInstr.2 = s.afterFetch s.nextInstr.length := by
  rw [s.nextInstr_length, s.fetchInstr_eq]

/-! ### A step -/

/-- A step once every field has been written (R371, R107). -/
theorem step_eq {s : State} (h : s.written = Written.all) :
    step s = if admits s.cfg.admission (tierOf s.nextInstr) then exec s.nextInstr (s.afterFetch s.nextInstr.length)
      else .refused (.notAdmitted s.nextInstr) := by
  rw [← s.fetchInstr_state, step, if_pos h]
  rfl

/-- Everything a completed step says: every field was written, the instruction was admitted, and its meaning completed
on the state after the fetch. -/
theorem step_next {s t : State} (h : step s = .next t) :
    s.written = Written.all ∧ admits s.cfg.admission (tierOf s.nextInstr) = true ∧
      exec s.nextInstr (s.afterFetch s.nextInstr.length) = .next t := by
  by_cases hw : s.written = Written.all
  · rw [step_eq hw] at h
    by_cases ha : admits s.cfg.admission (tierOf s.nextInstr) = true
    · rw [if_pos ha] at h
      exact ⟨hw, ha, h⟩
    · rw [if_neg ha] at h
      cases h
  · rw [step, if_neg hw] at h
    cases h

end Sys2Proof.Machine
end

