-- ==== Sys2Proof/Laws/Meanings.lean ====
section
/-! SUPPORT. Laws/Meanings: for each operation the meanings share, one lemma with its next state: what it writes, what it
leaves, the bus accesses it makes and the outcome it reports. -/

namespace Sys2Proof.Machine

/-! ### Frames from small facts -/

/-- Only A may differ. -/
theorem sameR8_but_a {s t : State} (hb : t.b = s.b) (hc : t.c = s.c) (hd : t.d = s.d) (he : t.e = s.e) (hh : t.h = s.h)
    (hl : t.l = s.l) : SameR8Except [.a] s t := by
  intro r hr
  cases r <;> first
    | assumption
    | simp at hr

/-- Only H and L may differ. -/
theorem sameR8_but_hl {s t : State} (ha : t.a = s.a) (hb : t.b = s.b) (hc : t.c = s.c) (hd : t.d = s.d) (he : t.e = s.e) :
    SameR8Except [.h, .l] s t := by
  intro r hr
  cases r <;> first
    | assumption
    | simp at hr

/-- The byte at HL read and written, then a change of neither memory, accesses nor registers. -/
theorem updated_atHL (s : State) (v : Byte) (g : State → State) (hm : ∀ u, (g u).mem = u.mem)
    (ha : ∀ u, (g u).accesses = u.accesses) (hr : ∀ u r, (g u).getR8 r = u.getR8 r) :
    Place.atHL.Updated v s (g ((s.memRead s.hl).2.memWrite s.hl v)) := by
  refine ⟨fun hb hw => ?_, fun q _ => by simp [hr], fun a hn => ?_, by simp [Accessed, ha]⟩
  · rw [hm]
    exact State.memWrite_read_same _ _ _ hb hw
  · rw [hm]
    exact State.memWrite_read_other _ _ (by simpa using hn)

/-- A register written, then a change of neither memory, accesses nor registers. -/
theorem updated_reg (s : State) (r : R8) (v : Byte) (g : State → State) (hm : ∀ u, (g u).mem = u.mem)
    (ha : ∀ u, (g u).accesses = u.accesses) (hr : ∀ u r, (g u).getR8 r = u.getR8 r) :
    (Place.reg r).Updated v s (g (s.setR8 r v)) := by
  refine ⟨by simp [hr], fun q hq => ?_, fun a _ => by simp [hm], by simp [Accessed, ha]⟩
  simp at hq
  simp [hr, hq]

/-- One byte stored, then a change that does not touch memory. -/
theorem stored_then (a : Addr) (v : Byte) (s : State) (g : State → State) (hm : ∀ u, (g u).mem = u.mem) :
    Stored a v s (g (s.memWrite a v)) ∧ SameMemoryExcept [a] s (g (s.memWrite a v)) := by
  refine ⟨fun hb hw => ?_, fun b hb => ?_⟩
  · rw [hm]
    exact State.memWrite_read_same _ _ _ hb hw
  · rw [hm]
    exact State.memWrite_read_other _ _ (by simpa using hb)

theorem sub_one_twice (v : Word) : v - 1#16 - 1#16 = v - 2#16 := by bv_omega

theorem add_one_twice (v : Word) : v + 1#16 + 1#16 = v + 2#16 := by bv_omega

/-- A push, then a change that does not touch memory (R300). -/
theorem pushed_then (s : State) (v : Word) (g : State → State) (hm : ∀ u, (g u).mem = u.mem) :
    Stored (s.sp - 1) (upperByte s.cfg.byteOrder v) s (g (s.push16 v)) ∧
      Stored (s.sp - 2) (lowerByte s.cfg.byteOrder v) s (g (s.push16 v)) ∧
      SameMemoryExcept [s.sp - 1, s.sp - 2] s (g (s.push16 v)) := by
  have e : s.sp - 2 = s.sp - 1 - 1 := (sub_one_twice s.sp).symm
  refine ⟨fun hb hw => ?_, fun hb hw => ?_, fun b hb => ?_⟩
  · rw [hm]
    exact (s.push16_read v hb hw).2
  · rw [hm, e]
    exact (s.push16_read v hb hw).1
  · rw [hm]
    rw [e] at hb
    simp at hb
    exact s.push16_read_other _ hb.1 hb.2

/-! ### 8-bit arithmetic and rotates -/

theorem aluAcc_spec (o : Alu8) (m : Nat) (s : State) : ∃ t, aluAcc o m s = .next t ∧
    t.a = o.res ∧ t.f = packFlags o.z o.n o.h o.c ∧
    SameR8Except [.a] s t ∧ SameMemoryExcept [] s t ∧ SameControl s t ∧ SameConfig s t ∧ Accessed [] s t ∧
    Retired m s t :=
  ⟨_, rfl, rfl, packFlags_masked _ _ _ _, sameR8_but_a rfl rfl rfl rfl rfl rfl, fun _ _ => rfl, ⟨rfl, rfl, rfl⟩,
    ⟨rfl, rfl⟩, by simp [Accessed], rfl⟩

theorem aluFlags_spec (o : Alu8) (m : Nat) (s : State) : ∃ t, aluFlags o m s = .next t ∧
    t.f = packFlags o.z o.n o.h o.c ∧
    SameR8Except [] s t ∧ SameMemoryExcept [] s t ∧ SameControl s t ∧ SameConfig s t ∧ Accessed [] s t ∧
    Retired m s t :=
  ⟨_, rfl, packFlags_masked _ _ _ _, fun _ _ => by simp, fun _ _ => rfl, ⟨rfl, rfl, rfl⟩, ⟨rfl, rfl⟩,
    by simp [Accessed], rfl⟩

theorem stepR8_spec (f : Byte → Step8) (r : R8) (s : State) : ∃ t, stepR8 f r s = .next t ∧
    (Place.reg r).Updated (f (s.getR8 r)).res s t ∧
    t.f = packFlags (f (s.getR8 r)).z (f (s.getR8 r)).n (f (s.getR8 r)).h s.flagC ∧
    SameControl s t ∧ SameConfig s t ∧ Retired 1 s t :=
  ⟨_, rfl, updated_reg s r _ (fun u => (u.writeFlags _ _ _ none).report _) (by simp) (by simp) (by simp),
    by simp, ⟨by simp, by simp, by simp⟩, ⟨by simp, by simp⟩, by simp [Retired]⟩

theorem stepAtHL_spec (f : Byte → Step8) (s : State) : ∃ t, stepAtHL f s = .next t ∧
    Place.atHL.Updated (f (s.busValue s.hl)).res s t ∧
    t.f = packFlags (f (s.busValue s.hl)).z (f (s.busValue s.hl)).n (f (s.busValue s.hl)).h s.flagC ∧
    SameControl s t ∧ SameConfig s t ∧ Retired 3 s t :=
  ⟨_, rfl, updated_atHL s _ (fun u => (u.writeFlags _ _ _ none).report _) (by simp) (by simp) (by simp),
    by simp, ⟨by simp, by simp, by simp⟩, ⟨by simp, by simp⟩, by simp [Retired]⟩

theorem rotateAcc_spec (o : Shift8) (s : State) : ∃ t, rotateAcc o s = .next t ∧
    t.a = o.res ∧ t.f = packFlags (zacc s o.res) false false o.c ∧
    SameR8Except [.a] s t ∧ SameMemoryExcept [] s t ∧ SameControl s t ∧ SameConfig s t ∧ Accessed [] s t ∧
    Retired 1 s t :=
  ⟨_, rfl, rfl, packFlags_masked _ _ _ _, sameR8_but_a rfl rfl rfl rfl rfl rfl, fun _ _ => rfl, ⟨rfl, rfl, rfl⟩,
    ⟨rfl, rfl⟩, by simp [Accessed], rfl⟩

theorem shiftR8_spec (f : Byte → Shift8) (r : R8) (s : State) : ∃ t, shiftR8 f r s = .next t ∧
    (Place.reg r).Updated (f (s.getR8 r)).res s t ∧
    t.f = packFlags (decide ((f (s.getR8 r)).res = 0)) false false (f (s.getR8 r)).c ∧
    SameControl s t ∧ SameConfig s t ∧ Retired 2 s t :=
  ⟨_, rfl, updated_reg s r _ (fun u => (u.writeFlags _ _ _ _).report _) (by simp) (by simp) (by simp),
    packFlags_masked _ _ _ _, ⟨by simp, by simp, by simp⟩, ⟨by simp, by simp⟩, by simp [Retired]⟩

theorem shiftAtHL_spec (f : Byte → Shift8) (s : State) : ∃ t, shiftAtHL f s = .next t ∧
    Place.atHL.Updated (f (s.busValue s.hl)).res s t ∧
    t.f = packFlags (decide ((f (s.busValue s.hl)).res = 0)) false false (f (s.busValue s.hl)).c ∧
    SameControl s t ∧ SameConfig s t ∧ Retired 4 s t :=
  ⟨_, rfl, updated_atHL s _ (fun u => (u.writeFlags _ _ _ _).report _) (by simp) (by simp) (by simp),
    packFlags_masked _ _ _ _, ⟨by simp, by simp, by simp⟩, ⟨by simp, by simp⟩, by simp [Retired]⟩

theorem bitTest_spec (v : Byte) (b : Fin 8) (m : Nat) (s : State) : ∃ t, bitTest v b m s = .next t ∧
    t.f = packFlags (!v.getLsbD b.val) false true s.flagC ∧
    SameR8Except [] s t ∧ SameMemoryExcept [] s t ∧ SameControl s t ∧ SameConfig s t ∧ Accessed [] s t ∧
    Retired m s t :=
  ⟨_, rfl, packFlags_masked _ _ _ _, fun _ _ => by simp, fun _ _ => rfl, ⟨rfl, rfl, rfl⟩, ⟨rfl, rfl⟩,
    by simp [Accessed], rfl⟩

theorem modifyAtHL_spec (f : Byte → Byte) (s : State) : ∃ t, modifyAtHL f s = .next t ∧
    Place.atHL.Updated (f (s.busValue s.hl)) s t ∧ t.f = s.f ∧ SameControl s t ∧ SameConfig s t ∧ Retired 4 s t :=
  ⟨_, rfl, updated_atHL s _ (fun u => u.report _) (by simp) (by simp) (by simp), by simp,
    ⟨by simp, by simp, by simp⟩, ⟨by simp, by simp⟩, by simp [Retired]⟩

/-! ### Loads and stores of A -/

theorem loadA_spec (addr : Addr) (m : Nat) (s : State) : ∃ t, loadA addr m s = .next t ∧ t.a = s.busValue addr ∧
    SameR8Except [.a] s t ∧ t.f = s.f ∧ SameMemoryExcept [] s t ∧ SameControl s t ∧ SameConfig s t ∧
    Accessed [⟨.read, addr, s.busValue addr⟩] s t ∧ Retired m s t :=
  ⟨_, rfl, rfl, sameR8_but_a rfl rfl rfl rfl rfl rfl, rfl, fun _ _ => rfl, ⟨rfl, rfl, rfl⟩, ⟨rfl, rfl⟩, rfl, rfl⟩

theorem storeA_spec (addr : Addr) (m : Nat) (s : State) : ∃ t, storeA addr m s = .next t ∧ Stored addr s.a s t ∧
    SameMemoryExcept [addr] s t ∧ SameR8Except [] s t ∧ t.f = s.f ∧ SameControl s t ∧ SameConfig s t ∧
    Accessed [⟨.write, addr, s.a⟩] s t ∧ Retired m s t :=
  ⟨_, rfl, (stored_then _ _ _ (fun u => u.report _) (by simp)).1, (stored_then _ _ _ (fun u => u.report _) (by simp)).2,
    fun _ _ => by simp, by simp, ⟨by simp, by simp, by simp⟩, ⟨by simp, by simp⟩, by simp [Accessed], by simp [Retired]⟩

/-! ### Control transfer -/

/-- The condition is the table's (R320). -/
theorem State.cond_eq (s : State) (cc : CC) : s.cond cc = condHolds cc s.flagZ s.flagC := by cases cc <;> rfl

/-- A call: the return address below the old SP, PC at the target (R326, R331). -/
theorem callTo_spec (s : State) (a : Addr) (m : Nat) : ∃ t, done m (callTo a s) = .next t ∧
    t.pc = a ∧ t.sp = s.sp - 2 ∧ t.ime = s.ime ∧
    Stored (s.sp - 1) (upperByte s.cfg.byteOrder s.pc) s t ∧ Stored (s.sp - 2) (lowerByte s.cfg.byteOrder s.pc) s t ∧
    SameMemoryExcept [s.sp - 1, s.sp - 2] s t ∧ SameR8Except [] s t ∧ t.f = s.f ∧ SameConfig s t ∧
    Accessed [⟨.write, s.sp - 1, upperByte s.cfg.byteOrder s.pc⟩, ⟨.write, s.sp - 2, lowerByte s.cfg.byteOrder s.pc⟩] s t ∧
    Retired m s t := by
  obtain ⟨h1, h2, h3⟩ := pushed_then s s.pc (fun u => (u.setPc a).report (.retired m (s.cfg.tPerM * m))) (by simp)
  refine ⟨_, rfl, by simp, by simp [sub_one_twice], by simp, ?_, ?_, ?_, fun _ _ => by simp, by simp,
    ⟨by simp, by simp⟩, by simp [Accessed, sub_one_twice], by simp [Retired]⟩
  · simpa [Stored, callTo, jumpTo] using h1
  · simpa [Stored, callTo, jumpTo] using h2
  · simpa [SameMemoryExcept, callTo, jumpTo] using h3

/-- A return: PC from the two bytes at SP (R328). -/
theorem returnFrom_spec (s : State) {b0 b1 : Byte} (h0 : b0 = s.busValue s.sp)
    (h1 : b1 = (s.memRead s.sp).2.busValue (s.sp + 1)) :
    (returnFrom s).pc.toNat = wordOf s.cfg.byteOrder b0 b1 ∧
      (returnFrom s).sp = s.sp + 2 ∧ (returnFrom s).accesses = s.accesses ++ [⟨.read, s.sp, b0⟩, ⟨.read, s.sp + 1, b1⟩] := by
  refine ⟨?_, by simp [add_one_twice], ?_⟩
  · rw [returnFrom_pc, State.pop16_value, assemble_toNat, ← h0, ← h1]
  · rw [returnFrom_accesses, State.pop16_accesses, ← h0, ← h1]

/-! ### What is behind the bus moves by the recorded accesses alone (R61 to R64, R70) -/

/-- A meaning that completes on a state into which the bus has been followed, and then touches no more of it. -/
theorem BusFollows.done {s u : State} (h : BusFollows s u) {m : Nat} {t : State} (hd : done m u = .next t) :
    BusFollows s t := by
  obtain ⟨l, ha, hb⟩ := h
  rw [done_eq_next] at hd
  subst hd
  exact ⟨l, ha, hb⟩

/-- An update of registers, flags or control fields does not touch it. -/
theorem BusFollows.then {s u v : State} (h : BusFollows s u) (ha : v.accesses = u.accesses) (hm : v.mem = u.mem)
    (hb : v.busState = u.busState) : BusFollows s v := by
  obtain ⟨l, al, bl⟩ := h
  exact ⟨l, ha.trans al, by simpa [State.behindBus, hm, hb] using bl⟩

theorem BusFollows.refl (s : State) : BusFollows s s := .of_eq rfl rfl rfl

theorem aluAcc_follows {o : Alu8} {m : Nat} {s u t : State} (hu : BusFollows s u) (h : aluAcc o m u = .next t) :
    BusFollows s t :=
  (hu.then (by simp) (by simp) (by simp)).done h

theorem aluFlags_follows {o : Alu8} {m : Nat} {s u t : State} (hu : BusFollows s u) (h : aluFlags o m u = .next t) :
    BusFollows s t :=
  (hu.then (by simp) (by simp) (by simp)).done h

theorem bitTest_follows {v : Byte} {b : Fin 8} {m : Nat} {s u t : State} (hu : BusFollows s u)
    (h : bitTest v b m u = .next t) : BusFollows s t :=
  (hu.then (by simp) (by simp) (by simp)).done h

theorem stepR8_follows {f : Byte → Step8} {r : R8} {s t : State} (h : stepR8 f r s = .next t) : BusFollows s t :=
  ((BusFollows.refl s).then (by simp) (by simp) (by simp)).done h

theorem shiftR8_follows {f : Byte → Shift8} {r : R8} {s t : State} (h : shiftR8 f r s = .next t) : BusFollows s t :=
  ((BusFollows.refl s).then (by simp) (by simp) (by simp)).done h

theorem rotateAcc_follows {o : Shift8} {s t : State} (h : rotateAcc o s = .next t) : BusFollows s t :=
  ((BusFollows.refl s).then (by simp) (by simp) (by simp)).done h

/-- One read at HL and one write there. -/
theorem State.modify_follows (s : State) (a : Addr) (v : Byte) : BusFollows s ((s.memRead a).2.memWrite a v) :=
  (s.memRead_follows a).trans rfl (State.memWrite_follows _ a v)

theorem stepAtHL_follows {f : Byte → Step8} {s t : State} (h : stepAtHL f s = .next t) : BusFollows s t :=
  ((s.modify_follows s.hl (f (s.busValue s.hl)).res).then (by simp) (by simp) (by simp)).done h

theorem shiftAtHL_follows {f : Byte → Shift8} {s t : State} (h : shiftAtHL f s = .next t) : BusFollows s t :=
  ((s.modify_follows s.hl (f (s.busValue s.hl)).res).then (by simp) (by simp) (by simp)).done h

theorem modifyAtHL_follows {f : Byte → Byte} {s t : State} (h : modifyAtHL f s = .next t) : BusFollows s t :=
  (s.modify_follows s.hl _).done h

theorem loadA_follows {a : Addr} {m : Nat} {s t : State} (h : loadA a m s = .next t) : BusFollows s t :=
  ((s.memRead_follows a).then (by simp) (by simp) (by simp)).done h

theorem storeA_follows {a : Addr} {m : Nat} {s t : State} (h : storeA a m s = .next t) : BusFollows s t :=
  (s.memWrite_follows a s.a).done h

/-- A call and a return (R326, R328). -/
theorem callTo_follows (a : Addr) (s : State) : BusFollows s (callTo a s) :=
  (s.push16_follows s.pc).then rfl rfl rfl

theorem returnFrom_follows (s : State) : BusFollows s (returnFrom s) := s.pop16_follows.then rfl rfl rfl

end Sys2Proof.Machine
end

