-- ==== Sys2Proof/Laws/PerInstr.lean ====
section
/-! SUPPORT. Laws/PerInstr: facts about an instruction as syntax, one lemma per constructor. -/

/-- The family: the encoder gives as many bytes as the opcode table's column `length`, under either byte order (R90). -/
def Sys2Proof.Laws.EncodedLength.Statement (i : Sys2Proof.Instr) : Prop :=
  ∀ bo : Sys2Proof.ByteOrder, (Sys2Proof.encode bo i).length = i.length

namespace Sys2Proof.Laws.EncodedLength

theorem nop : Statement .nop := fun _ => rfl
theorem ldAtA16SP (addr : Addr) : Statement (.ldAtA16SP addr) := fun _ => rfl
theorem stop (pad : Byte) : Statement (.stop pad) := fun _ => rfl
theorem jrE8 (e : Byte) : Statement (.jrE8 e) := fun _ => rfl
theorem jrCcE8 (cc : CC) (e : Byte) : Statement (.jrCcE8 cc e) := fun _ => rfl
theorem ldRrD16 (rr : R16) (d : Word) : Statement (.ldRrD16 rr d) := fun _ => rfl
theorem addHLRr (rr : R16) : Statement (.addHLRr rr) := fun _ => rfl
theorem ldAtBCA : Statement .ldAtBCA := fun _ => rfl
theorem ldAtDEA : Statement .ldAtDEA := fun _ => rfl
theorem ldAtHLIncA : Statement .ldAtHLIncA := fun _ => rfl
theorem ldAtHLDecA : Statement .ldAtHLDecA := fun _ => rfl
theorem ldAAtBC : Statement .ldAAtBC := fun _ => rfl
theorem ldAAtDE : Statement .ldAAtDE := fun _ => rfl
theorem ldAAtHLInc : Statement .ldAAtHLInc := fun _ => rfl
theorem ldAAtHLDec : Statement .ldAAtHLDec := fun _ => rfl
theorem incRr (rr : R16) : Statement (.incRr rr) := fun _ => rfl
theorem decRr (rr : R16) : Statement (.decRr rr) := fun _ => rfl
theorem incR (r : R8) : Statement (.incR r) := fun _ => rfl
theorem incAtHL : Statement .incAtHL := fun _ => rfl
theorem decR (r : R8) : Statement (.decR r) := fun _ => rfl
theorem decAtHL : Statement .decAtHL := fun _ => rfl
theorem ldRD8 (r : R8) (d : Byte) : Statement (.ldRD8 r d) := fun _ => rfl
theorem ldAtHLD8 (d : Byte) : Statement (.ldAtHLD8 d) := fun _ => rfl
theorem rlca : Statement .rlca := fun _ => rfl
theorem rrca : Statement .rrca := fun _ => rfl
theorem rla : Statement .rla := fun _ => rfl
theorem rra : Statement .rra := fun _ => rfl
theorem daa : Statement .daa := fun _ => rfl
theorem cpl : Statement .cpl := fun _ => rfl
theorem scf : Statement .scf := fun _ => rfl
theorem ccf : Statement .ccf := fun _ => rfl
theorem ldRR (dst src : R8) : Statement (.ldRR dst src) := fun _ => rfl
theorem ldRAtHL (dst : R8) : Statement (.ldRAtHL dst) := fun _ => rfl
theorem ldAtHLR (r : R8) : Statement (.ldAtHLR r) := fun _ => rfl
theorem halt : Statement .halt := fun _ => rfl
theorem addAR (r : R8) : Statement (.addAR r) := fun _ => rfl
theorem addAAtHL : Statement .addAAtHL := fun _ => rfl
theorem adcAR (r : R8) : Statement (.adcAR r) := fun _ => rfl
theorem adcAAtHL : Statement .adcAAtHL := fun _ => rfl
theorem subR (r : R8) : Statement (.subR r) := fun _ => rfl
theorem subAtHL : Statement .subAtHL := fun _ => rfl
theorem sbcAR (r : R8) : Statement (.sbcAR r) := fun _ => rfl
theorem sbcAAtHL : Statement .sbcAAtHL := fun _ => rfl
theorem andR (r : R8) : Statement (.andR r) := fun _ => rfl
theorem andAtHL : Statement .andAtHL := fun _ => rfl
theorem xorR (r : R8) : Statement (.xorR r) := fun _ => rfl
theorem xorAtHL : Statement .xorAtHL := fun _ => rfl
theorem orR (r : R8) : Statement (.orR r) := fun _ => rfl
theorem orAtHL : Statement .orAtHL := fun _ => rfl
theorem cpR (r : R8) : Statement (.cpR r) := fun _ => rfl
theorem cpAtHL : Statement .cpAtHL := fun _ => rfl
theorem addAD8 (d : Byte) : Statement (.addAD8 d) := fun _ => rfl
theorem adcAD8 (d : Byte) : Statement (.adcAD8 d) := fun _ => rfl
theorem subD8 (d : Byte) : Statement (.subD8 d) := fun _ => rfl
theorem sbcAD8 (d : Byte) : Statement (.sbcAD8 d) := fun _ => rfl
theorem andD8 (d : Byte) : Statement (.andD8 d) := fun _ => rfl
theorem xorD8 (d : Byte) : Statement (.xorD8 d) := fun _ => rfl
theorem orD8 (d : Byte) : Statement (.orD8 d) := fun _ => rfl
theorem cpD8 (d : Byte) : Statement (.cpD8 d) := fun _ => rfl
theorem retCc (cc : CC) : Statement (.retCc cc) := fun _ => rfl
theorem ldhAtA8A (a : Byte) : Statement (.ldhAtA8A a) := fun _ => rfl
theorem addSPE8 (e : Byte) : Statement (.addSPE8 e) := fun _ => rfl
theorem ldhAAtA8 (a : Byte) : Statement (.ldhAAtA8 a) := fun _ => rfl
theorem ldHLSPE8 (e : Byte) : Statement (.ldHLSPE8 e) := fun _ => rfl
theorem popRr (rr : R16S) : Statement (.popRr rr) := fun _ => rfl
theorem ret : Statement .ret := fun _ => rfl
theorem reti : Statement .reti := fun _ => rfl
theorem jpHL : Statement .jpHL := fun _ => rfl
theorem ldSPHL : Statement .ldSPHL := fun _ => rfl
theorem jpCcA16 (cc : CC) (t : Addr) : Statement (.jpCcA16 cc t) := fun _ => rfl
theorem ldAtCA : Statement .ldAtCA := fun _ => rfl
theorem ldAtA16A (addr : Addr) : Statement (.ldAtA16A addr) := fun _ => rfl
theorem ldAAtC : Statement .ldAAtC := fun _ => rfl
theorem ldAAtA16 (addr : Addr) : Statement (.ldAAtA16 addr) := fun _ => rfl
theorem jpA16 (t : Addr) : Statement (.jpA16 t) := fun _ => rfl
theorem prefixCB : Statement .prefixCB := fun _ => rfl
theorem di : Statement .di := fun _ => rfl
theorem ei : Statement .ei := fun _ => rfl
theorem callCcA16 (cc : CC) (t : Addr) : Statement (.callCcA16 cc t) := fun _ => rfl
theorem pushRr (rr : R16S) : Statement (.pushRr rr) := fun _ => rfl
theorem callA16 (t : Addr) : Statement (.callA16 t) := fun _ => rfl
theorem rstT (t : RST) : Statement (.rstT t) := fun _ => rfl
theorem invalidD3 : Statement .invalidD3 := fun _ => rfl
theorem invalidDB : Statement .invalidDB := fun _ => rfl
theorem invalidDD : Statement .invalidDD := fun _ => rfl
theorem invalidE3 : Statement .invalidE3 := fun _ => rfl
theorem invalidE4 : Statement .invalidE4 := fun _ => rfl
theorem invalidEB : Statement .invalidEB := fun _ => rfl
theorem invalidEC : Statement .invalidEC := fun _ => rfl
theorem invalidED : Statement .invalidED := fun _ => rfl
theorem invalidF4 : Statement .invalidF4 := fun _ => rfl
theorem invalidFC : Statement .invalidFC := fun _ => rfl
theorem invalidFD : Statement .invalidFD := fun _ => rfl
theorem rlcR (r : R8) : Statement (.rlcR r) := fun _ => rfl
theorem rlcAtHL : Statement .rlcAtHL := fun _ => rfl
theorem rrcR (r : R8) : Statement (.rrcR r) := fun _ => rfl
theorem rrcAtHL : Statement .rrcAtHL := fun _ => rfl
theorem rlR (r : R8) : Statement (.rlR r) := fun _ => rfl
theorem rlAtHL : Statement .rlAtHL := fun _ => rfl
theorem rrR (r : R8) : Statement (.rrR r) := fun _ => rfl
theorem rrAtHL : Statement .rrAtHL := fun _ => rfl
theorem slaR (r : R8) : Statement (.slaR r) := fun _ => rfl
theorem slaAtHL : Statement .slaAtHL := fun _ => rfl
theorem sraR (r : R8) : Statement (.sraR r) := fun _ => rfl
theorem sraAtHL : Statement .sraAtHL := fun _ => rfl
theorem swapR (r : R8) : Statement (.swapR r) := fun _ => rfl
theorem swapAtHL : Statement .swapAtHL := fun _ => rfl
theorem srlR (r : R8) : Statement (.srlR r) := fun _ => rfl
theorem srlAtHL : Statement .srlAtHL := fun _ => rfl
theorem bitBR (b : Fin 8) (r : R8) : Statement (.bitBR b r) := fun _ => rfl
theorem bitBAtHL (b : Fin 8) : Statement (.bitBAtHL b) := fun _ => rfl
theorem resBR (b : Fin 8) (r : R8) : Statement (.resBR b r) := fun _ => rfl
theorem resBAtHL (b : Fin 8) : Statement (.resBAtHL b) := fun _ => rfl
theorem setBR (b : Fin 8) (r : R8) : Statement (.setBR b r) := fun _ => rfl
theorem setBAtHL (b : Fin 8) : Statement (.setBAtHL b) := fun _ => rfl

end Sys2Proof.Laws.EncodedLength
end

