-- ==== Sys2Proof/Tests/Slice0.lean ====
section
/-! SUPPORT. Tests/Slice0: WellFormed's refusals; every constructor decoded from a word written out from the tables of
30_encoding.md; one step of each instruction on a vector of 95_test_vectors.md (its id stands in the docstring); and, for
every statement with hypotheses, a concrete state and operands that meet them. -/

namespace Sys2Proof.Machine.Tests

set_option Elab.async false

/-! ### WellFormed -/

/-- R355: 0xCB alone is no instruction. -/
theorem test_wellFormed_refuses_bare_prefix : Instr.wellFormed .prefixCB = false := by decide

/-- What is decoded after 0xCB is one, and so is an invalid entry's slot (R104). -/
theorem test_wellFormed_accepts_secondary_and_invalid :
    Instr.wellFormed (.swapR .b) = true ∧ Instr.wellFormed .invalidD3 = true := by decide

/-- 0xCB alone does not decode. -/
theorem test_bare_prefix_is_truncated : (decode .le [0xCB]).toOption = none := by decide

/-! ### Decoding -/

/-- The one instruction a list of bytes holds, with nothing left over. -/
def one (bytes : List Byte) : Option Instr :=
  match decode .le bytes with
  | .ok (i, []) => some i
  | _ => none

/-- R98: rows without a register field. -/
theorem test_decode_quadrant0_fixed :
    ([
      [0b00000000], [0b00001000, 0x34, 0x12], [0b00010000, 0x55], [0b00011000, 0xFE], [0b00100000, 1],
      [0b00101000, 2], [0b00110000, 3], [0b00111000, 0x80], [0b00000010], [0b00001010], [0b00010010],
      [0b00011010], [0b00100010], [0b00101010], [0b00110010], [0b00111010]] : List (List Byte)).map one = ([
      .nop, .ldAtA16SP 0x1234, .stop 0x55, .jrE8 0xFE, .jrCcE8 .nz 1, .jrCcE8 .z 2, .jrCcE8 .nc 3,
      .jrCcE8 .c 0x80, .ldAtBCA, .ldAAtBC, .ldAtDEA, .ldAAtDE, .ldAtHLIncA, .ldAAtHLInc, .ldAtHLDecA,
      .ldAAtHLDec] : List Instr).map some := by
  decide +kernel

/-- R98, R93: pairs, registers and (HL). -/
theorem test_decode_quadrant0_fields :
    ([
      [0b00000001, 0xFF, 0], [0b00110001, 0xFE, 0xFF], [0b00011001], [0b00101001], [0b00000011], [0b00110011],
      [0b00011011], [0b00111011], [0b00000100], [0b00111100], [0b00110100], [0b00001101], [0b00101101],
      [0b00110101], [0b00100110, 7], [0b00110110, 0xAB]] : List (List Byte)).map one = ([
      .ldRrD16 .bc 0x00FF, .ldRrD16 .sp 0xFFFE, .addHLRr .de, .addHLRr .hl, .incRr .bc, .incRr .sp, .decRr .de,
      .decRr .sp, .incR .b, .incR .a, .incAtHL, .decR .c, .decR .l, .decAtHL, .ldRD8 .h 7, .ldAtHLD8 0xAB] : List Instr).map some := by
  decide +kernel

/-- R98: z = 7. -/
theorem test_decode_quadrant0_accumulator :
    ([
      [0x07], [0x0F], [0x17], [0x1F], [0x27], [0x2F], [0x37], [0x3F]] : List (List Byte)).map one = ([
      .rlca, .rrca, .rla, .rra, .daa, .cpl, .scf, .ccf] : List Instr).map some := by
  decide +kernel

/-- R99: destination y, source z, HALT at 0x76. -/
theorem test_decode_quadrant1 :
    ([
      [0b01000001], [0b01111000], [0b01100101], [0b01010011], [0b01100110], [0b01111110], [0b01110101],
      [0b01110000], [0b01110110]] : List (List Byte)).map one = ([
      .ldRR .b .c, .ldRR .a .b, .ldRR .h .l, .ldRR .d .e, .ldRAtHL .h, .ldRAtHL .a, .ldAtHLR .l, .ldAtHLR .b,
      .halt] : List Instr).map some := by
  decide +kernel

/-- R100: operation y, source z. -/
theorem test_decode_quadrant2 :
    ([
      [0b10000000], [0b10000110], [0b10001001], [0b10001110], [0b10010010], [0b10010110], [0b10011011],
      [0b10011110], [0b10100100], [0b10100110], [0b10101101], [0b10101110], [0b10110111], [0b10110110],
      [0b10111000], [0b10111110]] : List (List Byte)).map one = ([
      .addAR .b, .addAAtHL, .adcAR .c, .adcAAtHL, .subR .d, .subAtHL, .sbcAR .e, .sbcAAtHL, .andR .h, .andAtHL,
      .xorR .l, .xorAtHL, .orR .a, .orAtHL, .cpR .b, .cpAtHL] : List Instr).map some := by
  decide +kernel

/-- R101: z = 6. -/
theorem test_decode_immediate_alu :
    ([
      [0b11000110, 0x11], [0b11001110, 0x22], [0b11010110, 0x33], [0b11011110, 0x44], [0b11100110, 0x55],
      [0b11101110, 0x66], [0b11110110, 0x77], [0b11111110, 0x88]] : List (List Byte)).map one = ([
      .addAD8 0x11, .adcAD8 0x22, .subD8 0x33, .sbcAD8 0x44, .andD8 0x55, .xorD8 0x66, .orD8 0x77, .cpD8 0x88] : List Instr).map some := by
  decide +kernel

/-- R101: loads, stack and SP forms. -/
theorem test_decode_quadrant3_loads :
    ([
      [0xE0, 0x80], [0xF0, 0xFF], [0xE8, 0xFE], [0xF8, 2], [0b11000001], [0b11110001], [0b11010101],
      [0b11100101], [0xF9], [0xE2], [0xF2], [0xEA, 0, 0xC0], [0xFA, 0x34, 0x12]] : List (List Byte)).map one = ([
      .ldhAtA8A 0x80, .ldhAAtA8 0xFF, .addSPE8 0xFE, .ldHLSPE8 2, .popRr .bc, .popRr .af, .pushRr .de,
      .pushRr .hl, .ldSPHL, .ldAtCA, .ldAAtC, .ldAtA16A 0xC000, .ldAAtA16 0x1234] : List Instr).map some := by
  decide +kernel

/-- R101: transfers, DI and EI. -/
theorem test_decode_quadrant3_control :
    ([
      [0b11000000], [0b11011000], [0xC9], [0xD9], [0xE9], [0b11001010, 1, 2], [0xC3, 0x50, 1],
      [0b11010100, 1, 2], [0xCD, 0x34, 0x12], [0b11000111], [0b11101111], [0b11111111], [0xF3], [0xFB]] : List (List Byte)).map one = ([
      .retCc .nz, .retCc .c, .ret, .reti, .jpHL, .jpCcA16 .z 0x0201, .jpA16 0x0150, .callCcA16 .nc 0x0201,
      .callA16 0x1234, .rstT 0, .rstT 5, .rstT 7, .di, .ei] : List Instr).map some := by
  decide +kernel

/-- R104: the eleven invalid bytes. -/
theorem test_decode_invalid :
    ([
      [0xD3], [0xDB], [0xDD], [0xE3], [0xE4], [0xEB], [0xEC], [0xED], [0xF4], [0xFC], [0xFD]] : List (List Byte)).map one = ([
      .invalidD3, .invalidDB, .invalidDD, .invalidE3, .invalidE4, .invalidEB, .invalidEC, .invalidED,
      .invalidF4, .invalidFC, .invalidFD] : List Instr).map some := by
  decide +kernel

/-- R102: operation y, operand z. -/
theorem test_decode_secondary_shifts :
    ([
      [0xCB, 0b00000000], [0xCB, 0b00000110], [0xCB, 0b00001001], [0xCB, 0b00001110], [0xCB, 0b00010010],
      [0xCB, 0b00010110], [0xCB, 0b00011011], [0xCB, 0b00011110], [0xCB, 0b00100100], [0xCB, 0b00100110],
      [0xCB, 0b00101101], [0xCB, 0b00101110], [0xCB, 0b00110111], [0xCB, 0b00110110], [0xCB, 0b00111000],
      [0xCB, 0b00111110]] : List (List Byte)).map one = ([
      .rlcR .b, .rlcAtHL, .rrcR .c, .rrcAtHL, .rlR .d, .rlAtHL, .rrR .e, .rrAtHL, .slaR .h, .slaAtHL, .sraR .l,
      .sraAtHL, .swapR .a, .swapAtHL, .srlR .b, .srlAtHL] : List Instr).map some := by
  decide +kernel

/-- R102: bit number y, operand z. -/
theorem test_decode_secondary_bits :
    ([
      [0xCB, 0b01111111], [0xCB, 0b01100101], [0xCB, 0b01000110], [0xCB, 0b10001000], [0xCB, 0b10011110],
      [0xCB, 0b11011100], [0xCB, 0b11111110]] : List (List Byte)).map one = ([
      .bitBR 7 .a, .bitBR 4 .l, .bitBAtHL 0, .resBR 1 .b, .resBAtHL 3, .setBR 3 .h, .setBAtHL 7] : List Instr).map some := by
  decide +kernel

/-- R96, D2: the operand bytes under the other byte order. -/
theorem test_decode_be :
    (decode .be [0x01, 0x01, 0x02]).toOption = some (.ldRrD16 .bc 0x0102, []) ∧
      (decode .be [0xC3, 0x01, 0x50, 0x00]).toOption = some (.jpA16 0x0150, [0x00]) := by decide +kernel

/-- R109: words as the opcode table numbers them, byte 0 in bits 15..8. -/
theorem test_decodeTableWord :
    decodeTableWord 16 0x0800 = some (.ldAtA16SP 0) ∧ decodeTableWord 16 0xCB30 = some (.swapR .b) ∧
      decodeTableWord 16 0xD300 = some .invalidD3 ∧ decodeTableWord 8 0x76 = some .halt := by decide +kernel

/-! ### One step -/

/-- The next state, if there is one. -/
def nextOf : Result → Option State
  | .next t => some t
  | _ => none

/-- The fault, if there is one. -/
def faultOf : Result → Option Fault
  | .fault r => some r
  | _ => none

/-- The bytes placed at PC and one step made. -/
def after (bytes : List Byte) (s : State) : Option State :=
  nextOf (step { s with mem := placeBytes s.mem s.pc bytes })

/-- The eleven fields of R20. -/
def core11 (s : State) : List Nat :=
  [s.a.toNat, s.b.toNat, s.c.toNat, s.d.toNat, s.e.toNat, s.h.toNat, s.l.toNat, s.f.toNat, s.pc.toNat, s.sp.toNat,
    s.ime.toNat]

/-! #### VA: 8-bit arithmetic and logic (41_alu8.md) -/

/-- VA1. -/
theorem test_add_a_b_va1 :
    (after [0x80] { State.reset with a := 0x3A, b := 0xC6 }).map (fun t => (t.a, t.f)) = some (0x00, 0xB0) := by
  decide +kernel

/-- VA3. -/
theorem test_add_a_hl_va3 :
    (after [0x86] { State.reset with a := 0x3C, h := 0xC0, mem := [(0xC000, 0x12)] }).map (fun t => (t.a, t.pc)) = some (0x4E, 0x0001) := by
  decide +kernel

/-- VA4. -/
theorem test_add_a_d8_va4 :
    (after [0xC6, 0xFF] { State.reset with a := 0x3C }).map (fun t => (t.a, t.f)) = some (0x3B, 0x30) := by
  decide +kernel

/-- VA5. -/
theorem test_adc_a_e_va5 :
    (after [0x8B] { State.reset with a := 0xE1, e := 0x0F, f := 0x10 }).map (fun t => (t.a, t.f)) = some (0xF1, 0x20) := by
  decide +kernel

/-- VA6. -/
theorem test_adc_a_d8_va6 :
    (after [0xCE, 0x3B] { State.reset with a := 0xE1, f := 0x10 }).map (fun t => (t.a, t.pc)) = some (0x1D, 0x0002) := by
  decide +kernel

/-- VA7. -/
theorem test_adc_a_hl_va7 :
    (after [0x8E] { State.reset with a := 0xE1, h := 0xC0, f := 0x10, mem := [(0xC000, 0x1E)] }).map (fun t => (t.a, t.f)) = some (0x00, 0xB0) := by
  decide +kernel

/-- VA10. -/
theorem test_sub_e_va10 :
    (after [0x93] { State.reset with a := 0x3E, e := 0x3E }).map (fun t => (t.a, t.f)) = some (0x00, 0xC0) := by
  decide +kernel

/-- VA12. -/
theorem test_sub_hl_va12 :
    (after [0x96] { State.reset with a := 0x3E, h := 0xC0, mem := [(0xC000, 0x40)] }).map (fun t => (t.a, t.f)) = some (0xFE, 0x50) := by
  decide +kernel

/-- VA11. -/
theorem test_sub_d8_va11 :
    (after [0xD6, 0x0F] { State.reset with a := 0x3E }).map (fun t => (t.a, t.f)) = some (0x2F, 0x60) := by
  decide +kernel

/-- VA19. -/
theorem test_sbc_a_b_borrowdecin_decides_h_va19 :
    (after [0x98] { State.reset with a := 0x10, b := 0x0F, f := 0x10 }).map (fun t => (t.a, t.f)) = some (0x00, 0xE0) := by
  decide +kernel

/-- VA16. -/
theorem test_sbc_a_hl_va16 :
    (after [0x9E] { State.reset with a := 0x3B, h := 0xC0, f := 0x10, mem := [(0xC000, 0x4F)] }).map (fun t => (t.a, t.f)) = some (0xEB, 0x70) := by
  decide +kernel

/-- VA15. -/
theorem test_sbc_a_d8_va15 :
    (after [0xDE, 0x3A] { State.reset with a := 0x3B, f := 0x10 }).map (fun t => (t.a, t.f)) = some (0x00, 0xC0) := by
  decide +kernel

/-- VA20. -/
theorem test_and_l_va20 :
    (after [0xA5] { State.reset with a := 0x5A, l := 0x3F, f := 0x50 }).map (fun t => (t.a, t.f)) = some (0x1A, 0x20) := by
  decide +kernel

/-- VA22. -/
theorem test_and_hl_va22 :
    (after [0xA6] { State.reset with a := 0x5A, h := 0xC0 }).map (fun t => (t.a, t.f)) = some (0x00, 0xA0) := by
  decide +kernel

/-- VA21. -/
theorem test_and_d8_va21 :
    (after [0xE6, 0x38] { State.reset with a := 0x5A }).map (fun t => (t.a, t.f)) = some (0x18, 0x20) := by
  decide +kernel

/-- VA23. -/
theorem test_xor_a_va23 :
    (after [0xAF] { State.reset with a := 0xFF, f := 0x70 }).map (fun t => (t.a, t.f)) = some (0x00, 0x80) := by
  decide +kernel

/-- VA25. -/
theorem test_xor_hl_va25 :
    (after [0xAE] { State.reset with a := 0xFF, h := 0xC0, mem := [(0xC000, 0x8A)] }).map (fun t => (t.a, t.pc)) = some (0x75, 0x0001) := by
  decide +kernel

/-- VA24. -/
theorem test_xor_d8_va24 :
    (after [0xEE, 0x0F] { State.reset with a := 0xFF }).map (fun t => (t.a, t.pc)) = some (0xF0, 0x0002) := by
  decide +kernel

/-- VA26. -/
theorem test_or_a_va26 :
    (after [0xB7] { State.reset with f := 0x70 }).map (fun t => (t.f, t.pc)) = some (0x80, 0x0001) := by
  decide +kernel

/-- VA28. -/
theorem test_or_hl_va28 :
    (after [0xB6] { State.reset with a := 0x5A, h := 0xC0, mem := [(0xC000, 0x0F)] }).map (fun t => (t.a, t.pc)) = some (0x5F, 0x0001) := by
  decide +kernel

/-- VA27. -/
theorem test_or_d8_va27 :
    (after [0xF6, 0x03] { State.reset with a := 0x5A }).map (fun t => (t.a, t.pc)) = some (0x5B, 0x0002) := by
  decide +kernel

/-- VA29. -/
theorem test_cp_b_va29 :
    (after [0xB8] { State.reset with a := 0x3C, b := 0x2F }).map (fun t => (t.f, t.pc)) = some (0x60, 0x0001) := by
  decide +kernel

/-- VA31. -/
theorem test_cp_hl_va31 :
    (after [0xBE] { State.reset with a := 0x3C, h := 0xC0, mem := [(0xC000, 0x40)] }).map (fun t => (t.f, t.pc)) = some (0x50, 0x0001) := by
  decide +kernel

/-- VA30. -/
theorem test_cp_d8_va30 :
    (after [0xFE, 0x3C] { State.reset with a := 0x3C }).map (fun t => (t.f, t.pc)) = some (0xC0, 0x0002) := by
  decide +kernel

/-- VA33. -/
theorem test_inc_a_va33 :
    (after [0x3C] { State.reset with a := 0xFF, f := 0x50 }).map (fun t => (t.a, t.f)) = some (0x00, 0xB0) := by
  decide +kernel

/-- VA36. -/
theorem test_inc_hl_va36 :
    (after [0x34] { State.reset with h := 0xC0, mem := [(0xC000, 0xFF)] }).map (fun t => (t.mem.read 0xC000, t.f)) = some (0x00, 0xA0) := by
  decide +kernel

/-- VA38. -/
theorem test_dec_c_va38 :
    (after [0x0D] { State.reset with f := 0x80 }).map (fun t => (t.c, t.f)) = some (0xFF, 0x60) := by
  decide +kernel

/-- VA40. -/
theorem test_dec_hl_va40 :
    (after [0x35] { State.reset with h := 0xC0, f := 0x10, mem := [(0xC000, 0x01)] }).map (fun t => (t.mem.read 0xC000, t.f)) = some (0x00, 0xD0) := by
  decide +kernel

/-- VA42. -/
theorem test_daa_after_0x99_inc_0x01_va42 :
    (after [0x27] { State.reset with a := 0x9A }).map (fun t => (t.a, t.f)) = some (0x00, 0x90) := by
  decide +kernel

/-- VA43. -/
theorem test_daa_after_0x83_dec_0x38_va43 :
    (after [0x27] { State.reset with a := 0x4B, f := 0x60 }).map (fun t => (t.a, t.f)) = some (0x45, 0x40) := by
  decide +kernel

/-- VA45. -/
theorem test_cpl_va45 :
    (after [0x2F] { State.reset with a := 0x35, f := 0x90 }).map (fun t => (t.a, t.f)) = some (0xCA, 0xF0) := by
  decide +kernel

/-- VA46. -/
theorem test_scf_va46 :
    (after [0x37] { State.reset with f := 0xE0 }).map (fun t => (t.f, t.pc)) = some (0x90, 0x0001) := by
  decide +kernel

/-- VA47. -/
theorem test_ccf_carry_set_va47 :
    (after [0x3F] { State.reset with f := 0xF0 }).map (fun t => (t.f, t.pc)) = some (0x80, 0x0001) := by
  decide +kernel

/-! #### VW: 16-bit arithmetic (42_alu16.md) -/

/-- VW1. -/
theorem test_add_hl_bc_vw1 :
    (after [0x09] { State.reset with b := 0x0F, h := 0x01, f := 0xD0 }).map (fun t => (t.h, t.f)) = some (0x10, 0xA0) := by
  decide +kernel

/-- VW5. -/
theorem test_add_hl_hl_vw5 :
    (after [0x29] { State.reset with h := 0x8A, l := 0x23, f := 0x80 }).map (fun t => (t.h, t.f)) = some (0x14, 0xB0) := by
  decide +kernel

/-- VW9. -/
theorem test_inc_bc_vw9 :
    (after [0x03] { State.reset with b := 0xFF, c := 0xFF, f := 0xF0 }).map (fun t => (t.b, t.c)) = some (0x00, 0x00) := by
  decide +kernel

/-- VW12. -/
theorem test_dec_de_vw12 :
    (after [0x1B] State.reset).map (fun t => (t.d, t.e)) = some (0xFF, 0xFF) := by
  decide +kernel

/-- VW17. -/
theorem test_add_sp_e8_dec1_vw17 :
    (after [0xE8, 0xFF] { State.reset with sp := 0x0001 }).map (fun t => (t.sp, t.f)) = some (0x0000, 0x30) := by
  decide +kernel

/-- VW22. -/
theorem test_ld_hl_spince8_inc2_vw22 :
    (after [0xF8, 0x02] { State.reset with h := 0x55, l := 0x55, f := 0xC0, sp := 0xFFFE }).map (fun t => (t.h, t.f)) = some (0x00, 0x30) := by
  decide +kernel

/-! #### VR: accumulator rotates (43_rotate_shift_bit.md) -/

/-- VR3. -/
theorem test_rlca_vr3 :
    (after [0x07] { State.reset with f := 0xF0 }).map (fun t => (t.a, t.f)) = some (0x00, 0x80) := by
  decide +kernel

/-- VR3. -/
theorem test_rlca_vr3_cleared :
    (after [0x07] { State.reset with f := 0xF0, cfg := { Config.default with accRotateZ := .cleared } }).map (fun t => (t.a, t.f)) = some (0x00, 0x00) := by
  decide +kernel

/-- VR4. -/
theorem test_rrca_vr4 :
    (after [0x0F] { State.reset with a := 0x3B, f := 0xE0 }).map (fun t => (t.a, t.f)) = some (0x9D, 0x10) := by
  decide +kernel

/-- VR6. -/
theorem test_rla_vr6 :
    (after [0x17] { State.reset with a := 0x95, f := 0xF0 }).map (fun t => (t.a, t.f)) = some (0x2B, 0x10) := by
  decide +kernel

/-- VR10. -/
theorem test_rra_vr10 :
    (after [0x1F] { State.reset with a := 0x01, f := 0xE0 }).map (fun t => (t.a, t.f)) = some (0x00, 0x90) := by
  decide +kernel

/-! #### VX: the secondary table (43_rotate_shift_bit.md) -/

/-- VX1. -/
theorem test_rlc_b_vx1 :
    (after [0xCB, 0x00] { State.reset with b := 0x85, f := 0x60 }).map (fun t => (t.b, t.f)) = some (0x0B, 0x10) := by
  decide +kernel

/-- VX2. -/
theorem test_rlc_hl_vx2 :
    (after [0xCB, 0x06] { State.reset with h := 0xC0, f := 0x70 }).map (fun t => (t.mem.read 0xC000, t.f)) = some (0x00, 0x80) := by
  decide +kernel

/-- VX4. -/
theorem test_rrc_c_vx4 :
    (after [0xCB, 0x09] { State.reset with c := 0x01 }).map (fun t => (t.c, t.f)) = some (0x80, 0x10) := by
  decide +kernel

/-- VX5. -/
theorem test_rrc_hl_vx5 :
    (after [0xCB, 0x0E] { State.reset with h := 0xC0, mem := [(0xC000, 0x3B)] }).map (fun t => (t.mem.read 0xC000, t.f)) = some (0x9D, 0x10) := by
  decide +kernel

/-- VX6. -/
theorem test_rl_l_vx6 :
    (after [0xCB, 0x15] { State.reset with l := 0x80 }).map (fun t => (t.l, t.f)) = some (0x00, 0x90) := by
  decide +kernel

/-- VX7. -/
theorem test_rl_hl_vx7 :
    (after [0xCB, 0x16] { State.reset with h := 0xC0, f := 0x10, mem := [(0xC000, 0x11)] }).map (fun t => (t.mem.read 0xC000, t.f)) = some (0x23, 0x00) := by
  decide +kernel

/-- VX9. -/
theorem test_rr_a_acc_rotate_z_cleared_vx9 :
    (after [0xCB, 0x1F] { State.reset with a := 0x01, cfg := { Config.default with accRotateZ := .cleared } }).map (fun t => (t.a, t.f)) = some (0x00, 0x90) := by
  decide +kernel

/-- VX10. -/
theorem test_rr_hl_vx10 :
    (after [0xCB, 0x1E] { State.reset with h := 0xC0, f := 0x10, mem := [(0xC000, 0x8A)] }).map (fun t => (t.mem.read 0xC000, t.f)) = some (0xC5, 0x00) := by
  decide +kernel

/-- VX11. -/
theorem test_sla_d_vx11 :
    (after [0xCB, 0x22] { State.reset with d := 0x80 }).map (fun t => (t.d, t.f)) = some (0x00, 0x90) := by
  decide +kernel

/-- VX12. -/
theorem test_sla_hl_vx12 :
    (after [0xCB, 0x26] { State.reset with h := 0xC0, mem := [(0xC000, 0xFF)] }).map (fun t => (t.mem.read 0xC000, t.f)) = some (0xFE, 0x10) := by
  decide +kernel

/-- VX13. -/
theorem test_sra_a_vx13 :
    (after [0xCB, 0x2F] { State.reset with a := 0x8A, f := 0x10 }).map (fun t => (t.a, t.f)) = some (0xC5, 0x00) := by
  decide +kernel

/-- VX14. -/
theorem test_sra_hl_vx14 :
    (after [0xCB, 0x2E] { State.reset with h := 0xC0, mem := [(0xC000, 0x01)] }).map (fun t => (t.mem.read 0xC000, t.f)) = some (0x00, 0x90) := by
  decide +kernel

/-- VX15. -/
theorem test_swap_a_vx15 :
    (after [0xCB, 0x37] { State.reset with a := 0xF1, f := 0x70 }).map (fun t => (t.a, t.f)) = some (0x1F, 0x00) := by
  decide +kernel

/-- VX16. -/
theorem test_swap_hl_vx16 :
    (after [0xCB, 0x36] { State.reset with h := 0xC0, f := 0x10 }).map (fun t => (t.mem.read 0xC000, t.f)) = some (0x00, 0x80) := by
  decide +kernel

/-- VX17. -/
theorem test_srl_a_vx17 :
    (after [0xCB, 0x3F] { State.reset with a := 0x01 }).map (fun t => (t.a, t.f)) = some (0x00, 0x90) := by
  decide +kernel

/-- VX18. -/
theorem test_srl_hl_vx18 :
    (after [0xCB, 0x3E] { State.reset with h := 0xC0, mem := [(0xC000, 0xFF)] }).map (fun t => (t.mem.read 0xC000, t.f)) = some (0x7F, 0x10) := by
  decide +kernel

/-- VX20. -/
theorem test_bit_4_l_vx20 :
    (after [0xCB, 0x65] { State.reset with l := 0xEF, f := 0x40 }).map (fun t => (t.f, t.pc)) = some (0xA0, 0x0002) := by
  decide +kernel

/-- VX21. -/
theorem test_bit_0_hl_vx21 :
    (after [0xCB, 0x46] { State.reset with h := 0xC0, f := 0x10, mem := [(0xC000, 0xFE)] }).map (fun t => (t.f, t.pc)) = some (0xB0, 0x0002) := by
  decide +kernel

/-- VX24. -/
theorem test_res_1_l_vx24 :
    (after [0xCB, 0x8D] { State.reset with l := 0x3B }).map (fun t => (t.l, t.pc)) = some (0x39, 0x0002) := by
  decide +kernel

/-- VX25. -/
theorem test_res_3_hl_vx25 :
    (after [0xCB, 0x9E] { State.reset with h := 0xC0, mem := [(0xC000, 0xFF)] }).map (fun t => (t.mem.read 0xC000, t.pc)) = some (0xF7, 0x0002) := by
  decide +kernel

/-- VX28. -/
theorem test_set_7_l_vx28 :
    (after [0xCB, 0xFD] { State.reset with l := 0x3B, f := 0xF0 }).map (fun t => (t.l, t.pc)) = some (0xBB, 0x0002) := by
  decide +kernel

/-- VX29. -/
theorem test_set_3_hl_vx29 :
    (after [0xCB, 0xDE] { State.reset with h := 0xC0 }).map (fun t => (t.mem.read 0xC000, t.pc)) = some (0x08, 0x0002) := by
  decide +kernel

/-! #### VL: 8-bit loads (44_load8.md) -/

/-- VL1. -/
theorem test_ld_b_c_vl1 :
    (after [0x41] { State.reset with b := 0x11, c := 0x22, f := 0xF0 }).map (fun t => (t.b, t.pc)) = some (0x22, 0x0001) := by
  decide +kernel

/-- VL3. -/
theorem test_ld_h_hl_vl3 :
    (after [0x66] { State.reset with h := 0xC1, l := 0x23, mem := [(0xC123, 0x9A)] }).map (fun t => (t.h, t.pc)) = some (0x9A, 0x0001) := by
  decide +kernel

/-- VL4. -/
theorem test_ld_hl_l_vl4 :
    (after [0x75] { State.reset with h := 0xC1, l := 0x23 }).map (fun t => (t.mem.read 0xC123, t.pc)) = some (0x23, 0x0001) := by
  decide +kernel

/-- VL5. -/
theorem test_ld_e_d8_vl5 :
    (after [0x1E, 0x7E] State.reset).map (fun t => (t.e, t.pc)) = some (0x7E, 0x0002) := by
  decide +kernel

/-- VL6. -/
theorem test_ld_hl_d8_vl6 :
    (after [0x36, 0xAB] { State.reset with h := 0xC0 }).map (fun t => (t.mem.read 0xC000, t.pc)) = some (0xAB, 0x0002) := by
  decide +kernel

/-- VL7. -/
theorem test_ld_a_bc_vl7 :
    (after [0x0A] { State.reset with b := 0x80, mem := [(0x8000, 0x42)] }).map (fun t => (t.a, t.pc)) = some (0x42, 0x0001) := by
  decide +kernel

/-- VL8. -/
theorem test_ld_a_de_vl8 :
    (after [0x1A] { State.reset with d := 0xFF, e := 0xFF, mem := [(0xFFFF, 0x17)] }).map (fun t => (t.a, t.pc)) = some (0x17, 0x0001) := by
  decide +kernel

/-- VL9. -/
theorem test_ld_bc_a_vl9 :
    (after [0x02] { State.reset with a := 0x99, b := 0xC0, c := 0x10 }).map (fun t => (t.mem.read 0xC010, t.pc)) = some (0x99, 0x0001) := by
  decide +kernel

/-- VL10. -/
theorem test_ld_de_a_vl10 :
    (after [0x12] { State.reset with a := 0x99, pc := 0x0100 }).map (fun t => (t.mem.read 0x0000, t.pc)) = some (0x99, 0x0101) := by
  decide +kernel

/-- VL11. -/
theorem test_ld_a_hlinc_vl11 :
    (after [0x2A] { State.reset with h := 0xFF, l := 0xFF, mem := [(0xFFFF, 0x3C)] }).map (fun t => (t.a, t.l)) = some (0x3C, 0x00) := by
  decide +kernel

/-- VL12. -/
theorem test_ld_a_hldec_vl12 :
    (after [0x3A] { State.reset with pc := 0x0100, mem := [(0x0000, 0x77)] }).map (fun t => (t.a, t.l)) = some (0x77, 0xFF) := by
  decide +kernel

/-- VL13. -/
theorem test_ld_hlinc_a_vl13 :
    (after [0x22] { State.reset with a := 0x56, h := 0xC0, l := 0xFF }).map (fun t => (t.h, t.mem.read 0xC0FF)) = some (0xC1, 0x56) := by
  decide +kernel

/-- VL14. -/
theorem test_ld_hldec_a_vl14 :
    (after [0x32] { State.reset with a := 0x56, h := 0xC1 }).map (fun t => (t.h, t.mem.read 0xC100)) = some (0xC0, 0x56) := by
  decide +kernel

/-- VL15. -/
theorem test_ld_a_a16_vl15 :
    (after [0xFA, 0x34, 0x12] { State.reset with mem := [(0x1234, 0xEE), (0x3412, 0x11)] }).map (fun t => (t.a, t.pc)) = some (0xEE, 0x0003) := by
  decide +kernel

/-- VL16. -/
theorem test_ld_a16_a_vl16 :
    (after [0xEA, 0x00, 0xC0] { State.reset with a := 0x5F }).map (fun t => (t.mem.read 0xC000, t.pc)) = some (0x5F, 0x0003) := by
  decide +kernel

/-- VL17. -/
theorem test_ldh_a8_a_vl17 :
    (after [0xE0, 0x80] { State.reset with a := 0x5F }).map (fun t => (t.mem.read 0xFF80, t.pc)) = some (0x5F, 0x0002) := by
  decide +kernel

/-- VL18. -/
theorem test_ldh_a_a8_vl18 :
    (after [0xF0, 0xFF] { State.reset with mem := [(0xFFFF, 0x1F)] }).map (fun t => (t.a, t.pc)) = some (0x1F, 0x0002) := by
  decide +kernel

/-- VL19. -/
theorem test_ld_c_a_vl19 :
    (after [0xE2] { State.reset with a := 0x5F, c := 0x44 }).map (fun t => (t.mem.read 0xFF44, t.pc)) = some (0x5F, 0x0001) := by
  decide +kernel

/-- VL20. -/
theorem test_ld_a_c_vl20 :
    (after [0xF2] { State.reset with mem := [(0xFF00, 0xCF)] }).map (fun t => (t.a, t.pc)) = some (0xCF, 0x0001) := by
  decide +kernel

/-! #### VK: 16-bit loads and the stack (45_load16_stack.md) -/

/-- VK1. -/
theorem test_ld_bc_d16_vk1 :
    (after [0x01, 0x01, 0x02] State.reset).map (fun t => (t.b, t.c)) = some (0x02, 0x01) := by
  decide +kernel

/-- VK6. -/
theorem test_ld_a16_sp_wraps_vk6 :
    (after [0x08, 0xFF, 0xFF] { State.reset with pc := 0x0100, sp := 0x1234 }).map (fun t => (t.mem.read 0x0000, t.mem.read 0xFFFF)) = some (0x12, 0x34) := by
  decide +kernel

/-- VK7. -/
theorem test_ld_sp_hl_vk7 :
    (after [0xF9] { State.reset with h := 0xD0 }).map (fun t => (t.sp, t.pc)) = some (0xD000, 0x0001) := by
  decide +kernel

/-- VK9. -/
theorem test_push_af_vk9 :
    (after [0xF5] { State.reset with a := 0x12, f := 0xB0, sp := 0xD000 }).map (fun t => (t.sp, t.mem.read 0xCFFF)) = some (0xCFFE, 0x12) := by
  decide +kernel

/-- VK11. -/
theorem test_push_de_sp_1_vk11 :
    (after [0xD5] { State.reset with d := 0xA5, e := 0x5A, pc := 0x0100, sp := 0x0001 }).map (fun t => (t.sp, t.mem.read 0xFFFF)) = some (0xFFFF, 0x5A) := by
  decide +kernel

/-- VK13. -/
theorem test_pop_af_low_nibble_dropped_vk13 :
    (after [0xF1] { State.reset with sp := 0xFFFC, mem := [(0xFFFC, 0xFF), (0xFFFD, 0x3C)] }).map (fun t => (t.a, t.f)) = some (0x3C, 0xF0) := by
  decide +kernel

/-- VK15. -/
theorem test_pop_hl_wraps_vk15 :
    (after [0xE1] { State.reset with pc := 0x0100, sp := 0xFFFF, mem := [(0x0000, 0xAB), (0xFFFF, 0xCD)] }).map (fun t => (t.h, t.sp)) = some (0xAB, 0x0001) := by
  decide +kernel

/-! #### VJ: control transfer (46_control_transfer.md) -/

/-- VJ1. -/
theorem test_jp_a16_vj1 :
    (after [0xC3, 0x50, 0x01] State.reset).map (fun t => t.pc) = some 0x0150 := by
  decide +kernel

/-- VJ3. -/
theorem test_jp_nz_a16_not_taken_vj3 :
    (after [0xC2, 0x00, 0x80] { State.reset with f := 0x80 }).map (fun t => t.pc) = some 0x0003 := by
  decide +kernel

/-- VJ4. -/
theorem test_jp_z_a16_taken_vj4 :
    (after [0xCA, 0x00, 0x80] { State.reset with f := 0x80 }).map (fun t => t.pc) = some 0x8000 := by
  decide +kernel

/-- VJ7. -/
theorem test_jp_hl_vj7 :
    (after [0xE9] { State.reset with h := 0x80, mem := [(0x8000, 0x55)] }).map (fun t => t.pc) = some 0x8000 := by
  decide +kernel

/-- VJ10. -/
theorem test_jr_e8_dec128_vj10 :
    (after [0x18, 0x80] { State.reset with pc := 0x0200 }).map (fun t => t.pc) = some 0x0182 := by
  decide +kernel

/-- VJ14. -/
theorem test_jr_nz_e8_taken_vj14 :
    (after [0x20, 0xFB] { State.reset with f := 0x40, pc := 0x0205 }).map (fun t => t.pc) = some 0x0202 := by
  decide +kernel

/-- VJ15. -/
theorem test_jr_nz_e8_not_taken_vj15 :
    (after [0x20, 0xFB] { State.reset with f := 0xC0, pc := 0x0205 }).map (fun t => t.pc) = some 0x0207 := by
  decide +kernel

/-- VJ19. -/
theorem test_call_a16_vj19 :
    (after [0xCD, 0x34, 0x12] { State.reset with pc := 0x8000, sp := 0xFFFE }).map (fun t => (t.pc, t.mem.read 0xFFFD)) = some (0x1234, 0x80) := by
  decide +kernel

/-- VJ20. -/
theorem test_call_z_a16_taken_vj20 :
    (after [0xCC, 0x34, 0x12] { State.reset with f := 0x80, pc := 0x8000, sp := 0xFFFE }).map (fun t => (t.pc, t.mem.read 0xFFFD)) = some (0x1234, 0x80) := by
  decide +kernel

/-- VJ21. -/
theorem test_call_z_a16_not_taken_vj21 :
    (after [0xCC, 0x34, 0x12] { State.reset with pc := 0x8000, sp := 0xFFFE }).map (fun t => t.pc) = some 0x8003 := by
  decide +kernel

/-- VJ24. -/
theorem test_ret_vj24 :
    (after [0xC9] { State.reset with pc := 0x1234, sp := 0xFFFC, mem := [(0xFFFC, 0x03), (0xFFFD, 0x80)] }).map (fun t => (t.pc, t.sp)) = some (0x8003, 0xFFFE) := by
  decide +kernel

/-- VJ25. -/
theorem test_ret_nz_taken_vj25 :
    (after [0xC0] { State.reset with pc := 0x1234, sp := 0xFFFC, mem := [(0xFFFC, 0x03), (0xFFFD, 0x80)] }).map (fun t => (t.pc, t.sp)) = some (0x8003, 0xFFFE) := by
  decide +kernel

/-- VJ26. -/
theorem test_ret_nz_not_taken_vj26 :
    (after [0xC0] { State.reset with f := 0x80, pc := 0x1234, sp := 0xFFFC, mem := [(0xFFFC, 0x03), (0xFFFD, 0x80)] }).map (fun t => t.pc) = some 0x1235 := by
  decide +kernel

/-- VJ28. -/
theorem test_reti_vj28 :
    (after [0xD9] { State.reset with pc := 0x0048, sp := 0xFFFC, ime := false, mem := [(0xFFFC, 0x03), (0xFFFD, 0x80)] }).map (fun t => (t.pc, t.ime)) = some (0x8003, true) := by
  decide +kernel

/-- VJ32. -/
theorem test_rst_0x38_at_0xffff_vj32 :
    (after [0xFF] { State.reset with pc := 0xFFFF, sp := 0xD000 }).map (fun t => (t.pc, t.mem.read 0xCFFF)) = some (0x0038, 0x00) := by
  decide +kernel

/-! #### VM: system (47_misc_system.md) -/

/-- VM1. -/
theorem test_nop_vm1 :
    (after [0x00] { State.reset with a := 0x12, f := 0xF0 }).map (fun t => t.pc) = some 0x0001 := by
  decide +kernel

/-- VM3. -/
theorem test_halt_vm3 :
    (after [0x76] { State.reset with pc := 0x0150 }).map (fun t => (t.last, t.pc)) = some (.halted .halt 1 4, 0x0151) := by
  decide +kernel

/-- VM6. -/
theorem test_stop_pad_0x55_vm6 :
    (after [0x10, 0x55] { State.reset with pc := 0x0150 }).map (fun t => (t.last, t.pc)) = some (.halted .stop 1 4, 0x0152) := by
  decide +kernel

/-- VM7. -/
theorem test_di_vm7 :
    (after [0xF3] State.reset).map (fun t => (t.ime, t.pc)) = some (false, 0x0001) := by
  decide +kernel

/-- VM9. -/
theorem test_ei_vm9 :
    (after [0xFB] { State.reset with ime := false }).map (fun t => (t.ime, t.pc)) = some (true, 0x0001) := by
  decide +kernel

/-- VM11. -/
theorem test_cb_prefix_at_0xffff_then_swap_b_vm11 :
    (after [0xCB] { State.reset with b := 0x12, pc := 0xFFFF, mem := [(0x0000, 0x30)] }).map (fun t => (t.b, t.pc)) = some (0x21, 0x0001) := by
  decide +kernel

/-! #### VE: BYTE_ORDER = BE -/

/-- VE1. -/
theorem test_ld_bc_d16_ve1 :
    (after [0x01, 0x01, 0x02] { State.reset with cfg := { Config.default with byteOrder := .be } }).map (fun t => (t.b, t.c)) = some (0x01, 0x02) := by
  decide +kernel

/-- VE3. -/
theorem test_push_bc_ve3 :
    (after [0xC5] { State.reset with b := 0x12, c := 0x34, sp := 0xD000, cfg := { Config.default with byteOrder := .be } }).map (fun t => (t.sp, t.mem.read 0xCFFF)) = some (0xCFFE, 0x34) := by
  decide +kernel

/-- VE4. -/
theorem test_pop_bc_ve4 :
    (after [0xC1] { State.reset with sp := 0xFFFC, mem := [(0xFFFC, 0x5F), (0xFFFD, 0x3C)], cfg := { Config.default with byteOrder := .be } }).map (fun t => (t.b, t.sp)) = some (0x5F, 0xFFFE) := by
  decide +kernel

/-- VE5. -/
theorem test_call_a16_ve5 :
    (after [0xCD, 0x12, 0x34] { State.reset with pc := 0x8000, sp := 0xFFFE, cfg := { Config.default with byteOrder := .be } }).map (fun t => (t.sp, t.mem.read 0xFFFD)) = some (0xFFFC, 0x03) := by
  decide +kernel

/-! #### Stops, prefix, fetch -/

/-- VM12: an invalid byte under every ADMIT. -/
theorem test_invalid_d3_vm12 :
    (faultOf (step { State.reset with pc := 0x0150, mem := [(0x0150, 0xD3)] }),
      faultOf (step { State.reset with
        pc := 0x0150, mem := [(0x0150, 0xD3)], cfg := { Config.default with admission := .sourceSettled } })) =
      (some (.invalidOpcode .primary 0xD3 0x0150), some (.invalidOpcode .primary 0xD3 0x0150)) := by decide +kernel

/-- VM14: at the top of the address space. -/
theorem test_invalid_fd_vm14 :
    faultOf (step { State.reset with pc := 0xFFFF, mem := [(0xFFFF, 0xFD)] }) =
      some (.invalidOpcode .primary 0xFD 0xFFFF) := by decide +kernel

/-- R355: the prefix entry fetches the secondary byte itself (SWAP A, 0x37). -/
theorem test_prefix_entry :
    (nextOf (exec .prefixCB { State.reset with a := 0xF1, pc := 0x0101, mem := [(0x0101, 0x37)] })).map
      (fun t => (t.a, t.pc)) = some (0x1F, 0x0102) := by decide +kernel

/-- R70, VJ22: the accesses of a taken CALL NC,a16, in order. -/
theorem test_accesses_vj22 :
    (after [0xD4, 0x00, 0x40] { State.reset with pc := 0x0100, sp := 0xD000 }).map (fun t => t.accesses) =
      some [⟨.read, 0x0100, 0xD4⟩, ⟨.read, 0x0101, 0x00⟩, ⟨.read, 0x0102, 0x40⟩, ⟨.write, 0xCFFF, 0x01⟩,
        ⟨.write, 0xCFFE, 0x03⟩] := by decide +kernel

/-- A table word placed for the next step is the instruction it runs: ADD A,d8 with d8 = 0 leaves PC at 2. -/
theorem test_withFetchWord :
    (nextOf (step (State.reset.withFetchWord 16 0xC600))).map (fun t => (t.pc, t.f)) = some (0x0002, 0x80) := by
  decide +kernel

/-- R107: RLA is tier G, refused by name below Full. -/
theorem test_admit_source_named :
    (match step { State.reset with mem := [(0, 0x17)], cfg := { Config.default with admission := .sourceNamed } } with
      | .refused (.notAdmitted i) => some i
      | _ => none) = some .rla := by decide +kernel

/-! #### Reset and the host (S4, S6, R35, R37) -/

/-- S6: reset from any content. -/
theorem test_reset_defaults :
    core11 ({ State.reset with a := 0xFF, f := 0xF0, pc := 0x1234, sp := 0xFFFE, ime := false } : State).coreReset =
      [0, 0, 0, 0, 0, 0, 0, 0, 0, 0, 1] := by decide +kernel

/-- S4: set AF = 0xABCD, get A, F and AF. -/
theorem test_host_set_af :
    [HostReg.a, .f, .af].map (fun r => (hostGet r (hostSet .af 0xABCD State.reset)).toOption) =
      [some 0xAB, some 0xC0, some 0xABC0] := by decide +kernel

/-- R35: no field of the core as created can be read; once set, it can. -/
theorem test_host_unwritten :
    ((hostGet .bc (hostSet .b 1 State.created)).toOption, (hostGet .b (hostSet .b 1 State.created)).toOption) =
      (none, some 1) := by decide +kernel

/-! ### Witnesses: a concrete state and operands for the hypotheses of each statement that has any -/

/-- Reset state with one program byte at 0. -/
def at0 (b : Byte) : State := { State.reset with mem := [(0, b)] }

theorem witness_NothingRunsBeforeEveryFieldIsWritten :
    State.created.written ≠ Written.all ∧ State.created.written.has .a = false ∧
      (hostSet .a 1 State.created).written.has .af = false := by decide

/-- A set of B leaves AF, and each of its fields. -/
theorem witness_HostGetAfterSetAnswersTheTruncatedValue :
    ∀ x ∈ HostReg.af.fields, x ∉ HostReg.b.fields := by decide

theorem witness_LowNibbleOfFlagsStaysZero :
    ({ at0 0x3F with f := 0xF0 } : State).flagNibbleZero ∧ ∃ t, step { at0 0x3F with f := 0xF0 } = .next t :=
  ⟨rfl, _, rfl⟩

theorem witness_FlatBusStaysCanonical :
    (at0 0x02).memCanonical ∧ ∃ t, step (at0 0x02) = .next t := ⟨rfl, _, rfl⟩

theorem witness_DecodeOfEncodeIsTheInstruction :
    Instr.wellFormed .nop = true ∧ Instr.wellFormed (.ldRrD16 .sp 0xFFFF) = true ∧
      Instr.wellFormed (.setBR 7 .a) = true ∧ Instr.wellFormed .invalidFD = true := by decide

theorem witness_InvalidEntriesAreExactlyTheElevenBytes :
    (decodeInstr .le 0xD3 0 0).isInvalid = true ∧ (0xFD : Byte) ∈ invalidBytes ∧ (0xCB : Byte) ∉ invalidBytes := by
  decide +kernel

theorem witness_StepRunsTheDecodedInstruction_one :
    State.reset.written = Written.all ∧
      decode .le [State.reset.fetchByte 0, State.reset.fetchByte 1, State.reset.fetchByte 2] = .ok (.nop, [0, 0]) ∧
      admits .full (tierOf .nop) = true := ⟨rfl, rfl, rfl⟩

theorem witness_StepRunsTheDecodedInstruction_three :
    decode .le [(at0 0xC3).fetchByte 0, (at0 0xC3).fetchByte 1, (at0 0xC3).fetchByte 2] = .ok (.jpA16 0, []) ∧
      admits (at0 0xC3).cfg.admission (tierOf (.jpA16 0)) = true := ⟨rfl, rfl⟩

theorem witness_StepAdvancesPcByTheLength :
    (∃ t, step { at0 0 with pc := 0xFFFF } = .next t) ∧
      Instr.isTransfer (State.nextInstr { at0 0 with pc := 0xFFFF }) = false := ⟨⟨_, rfl⟩, rfl⟩

/-- RLA is tier G, RRCA SG, RLCA S: each under each ADMIT that the clauses name. -/
theorem witness_AdmissionRefusesExactlyTheTiersAbove :
    (at0 0x17).written = Written.all ∧ (at0 0x17).cfg.admission = .full ∧
      tierOf (at0 0x17).nextInstr = some .g ∧ tierOf (at0 0x0F).nextInstr = some .sg ∧
      tierOf (at0 0x07).nextInstr = some .s ∧
      ({ at0 0x17 with cfg := { Config.default with admission := .sourceNamed } } : State).cfg.admission = .sourceNamed ∧
      ({ at0 0x17 with cfg := { Config.default with admission := .sourceSettled } } : State).cfg.admission = .sourceSettled := by
  decide +kernel

theorem witness_StepOnAnInvalidByteIsInvalidOpcode :
    (at0 0xD3).written = Written.all ∧ (at0 0xD3).fetchByte 0 ∈ invalidBytes ∧
      ({ at0 0 with pc := 0xFFFF, mem := [(0xFFFF, 0xFD)] } : State).fetchByte 0 ∈ invalidBytes := by decide +kernel

/-- A step completes on 0xCB and is invalid on 0xED; both states meet the hypotheses. -/
theorem witness_StepCompletesExactlyOffTheInvalidBytes :
    (at0 0xCB).written = Written.all ∧ (at0 0xCB).cfg.admission = .full ∧ (at0 0xCB).fetchByte 0 ∉ invalidBytes ∧
      (at0 0xED).written = Written.all ∧ (at0 0xED).cfg.admission = .full ∧ (at0 0xED).fetchByte 0 ∈ invalidBytes := by
  decide +kernel

theorem witness_OutcomeIsHaltedExactlyForHaltAndStop :
    ((at0 0x76).nextInstr = .halt ∧ ∃ t, step (at0 0x76) = .next t) ∧
      ((at0 0x10).nextInstr = .stop 0 ∧ ∃ t, step (at0 0x10) = .next t) ∧
      ((at0 0x00).nextInstr = .nop ∧ ∃ t, step (at0 0x00) = .next t) :=
  ⟨⟨rfl, _, rfl⟩, ⟨rfl, _, rfl⟩, ⟨rfl, _, rfl⟩⟩

/-- LD (a16),SP makes 5 accesses in 5 cycles, the bound met. -/
theorem witness_MachineCyclesBoundTheBusAccesses :
    (at0 0x08).nextInstr = .ldAtA16SP 0 ∧
      (nextOf (step (at0 0x08))).map (fun t => (t.accesses.length, t.last)) = some (5, .retired 5 20) := by
  decide +kernel

theorem witness_OnlyDiEiAndRetiWriteIme :
    ((at0 0xF3).nextInstr = .di ∧ ∃ t, step (at0 0xF3) = .next t) ∧
      ((at0 0xFB).nextInstr = .ei ∧ ∃ t, step (at0 0xFB) = .next t) ∧
      ((at0 0xD9).nextInstr = .reti ∧ ∃ t, step (at0 0xD9) = .next t) ∧
      ((at0 0xC9).nextInstr = .ret ∧ ∃ t, step (at0 0xC9) = .next t) :=
  ⟨⟨rfl, _, rfl⟩, ⟨rfl, _, rfl⟩, ⟨rfl, _, rfl⟩, ⟨rfl, _, rfl⟩⟩

theorem witness_OnlyStoringFormsChangeMemory :
    Instr.mayStore (.retCc .nz) = false ∧ ∃ t, exec (.retCc .nz) State.reset = .next t := ⟨rfl, _, rfl⟩

theorem witness_FlaglessInstructionsLeaveFlags :
    Instr.leavesFlags (.popRr .hl) = true ∧ ∃ t, exec (.popRr .hl) { State.reset with f := 0xF0 } = .next t :=
  ⟨rfl, _, rfl⟩

theorem witness_DaaAdjustsByTheRule :
    State.reset.flagN = false ∧ ({ State.reset with f := 0x40 } : State).flagN = true := by decide +kernel

theorem witness_AccumulatorRotatesBitByBit :
    (.rlc, .rlca) ∈ accRotates ∧ (.rrc, .rrca) ∈ accRotates ∧ (.rl, .rla) ∈ accRotates ∧ (.rr, .rra) ∈ accRotates := by
  decide

theorem witness_AccumulatorLoadsReadOneByte :
    (.ldAAtBC, 0, 2) ∈ accLoads State.reset 0xFFFF 0xFF ∧ (.ldAAtA16 0xFFFF, 0xFFFF, 4) ∈ accLoads State.reset 0xFFFF 0xFF ∧
      (.ldhAAtA8 0xFF, 0xFFFF, 3) ∈ accLoads State.reset 0xFFFF 0xFF ∧
      (.ldAAtC, 0xFF00, 2) ∈ accLoads State.reset 0xFFFF 0xFF := by decide +kernel

theorem witness_AccumulatorStoresWriteOneByte :
    (.ldAtDEA, 0, 2) ∈ accStores State.reset 0xFFFF 0xFF ∧ (.ldAtA16A 0xFFFF, 0xFFFF, 4) ∈ accStores State.reset 0xFFFF 0xFF ∧
      (.ldhAtA8A 0xFF, 0xFFFF, 3) ∈ accStores State.reset 0xFFFF 0xFF ∧
      (.ldAtCA, 0xFF00, 2) ∈ accStores State.reset 0xFFFF 0xFF := by decide +kernel

theorem witness_StoreOfSpWritesTwoBytes :
    (0xF8, 0xFF) = inAddressOrder Config.default.byteOrder 0xFFF8 ∧ (0xFF, 0xF8) = inAddressOrder .be 0xFFF8 := by
  decide

/-- PUSH of each pair of the reset state. -/
theorem witness_PushWritesTwoBytesBelowSp :
    (0, 0) = inAddressOrder State.reset.cfg.byteOrder (State.reset.getR16S .bc) ∧
      (0, 0) = inAddressOrder State.reset.cfg.byteOrder (State.reset.getR16S .af) := by decide

/-- POP and RET at the top of the space: the second byte is at 0x0000. -/
theorem witness_PopReadsTwoBytesAtSp :
    (0xCD : Byte) = State.busValue { State.reset with sp := 0xFFFF, mem := [(0, 0xAB), (0xFFFF, 0xCD)] } 0xFFFF ∧
      (0xAB : Byte) = State.busValue
        (State.memRead { State.reset with sp := 0xFFFF, mem := [(0, 0xAB), (0xFFFF, 0xCD)] } 0xFFFF).2 (0xFFFF + 1) := by
  decide +kernel

theorem witness_PopAfterPushGivesTheValueBack :
    State.reset.cfg.bus = .flat ∧ State.reset.Inv ∧ ∃ t, exec (.pushRr .af) State.reset = .next t :=
  ⟨rfl, ⟨rfl, rfl⟩, _, rfl⟩

theorem witness_JumpsWriteOnlyPc :
    (.jpA16 0xFFFF, 0xFFFF, 4) ∈ jumps State.reset 0xFFFF 0x80 ∧ (.jpHL, 0, 1) ∈ jumps State.reset 0xFFFF 0x80 ∧
      (.jrE8 0x80, 0xFF80, 3) ∈ jumps State.reset 0xFFFF 0x80 := by decide +kernel

theorem witness_ConditionalJumpsTestTheFlag :
    true = condHolds .nz State.reset.flagZ State.reset.flagC ∧ false = condHolds .c State.reset.flagZ State.reset.flagC ∧
      (.jpCcA16 .c 1, 1, 4, 3) ∈ condJumps State.reset .c 1 0x7F ∧
      (.jrCcE8 .nz 0x7F, 0x007F, 3, 2) ∈ condJumps State.reset .nz 1 0x7F := by decide +kernel

theorem witness_CallsAndRestartsPushTheReturnAddress :
    (.callA16 0xFFFF, 0xFFFF, 6) ∈ calls 0xFFFF 7 ∧ (.rstT 7, 0x0038, 4) ∈ calls 0xFFFF 7 ∧
      (0, 0) = inAddressOrder State.reset.cfg.byteOrder State.reset.pc := by decide +kernel

theorem witness_ConditionalCallTestsTheFlag :
    true = condHolds .nc State.reset.flagZ State.reset.flagC ∧ false = condHolds .z State.reset.flagZ State.reset.flagC ∧
      (0, 0) = inAddressOrder State.reset.cfg.byteOrder State.reset.pc := by decide +kernel

theorem witness_ReturnsPopPc :
    0 = State.reset.busValue State.reset.sp ∧ 0 = (State.reset.memRead State.reset.sp).2.busValue (State.reset.sp + 1) ∧
      (.ret, true) ∈ returns State.reset ∧ (.reti, true) ∈ returns State.reset := by decide +kernel

theorem witness_ConditionalReturnTestsTheFlag :
    true = condHolds .nz State.reset.flagZ State.reset.flagC ∧ false = condHolds .c State.reset.flagZ State.reset.flagC ∧
      0 = State.reset.busValue State.reset.sp ∧ 0 = (State.reset.memRead State.reset.sp).2.busValue (State.reset.sp + 1) := by
  decide +kernel

theorem witness_InvalidBytesRaiseInvalidOpcode :
    (.invalidD3, 0xD3) ∈ invalidEntries ∧ (.invalidFD, 0xFD) ∈ invalidEntries := by decide

theorem witness_RunEndsAtHaltedAndAtInvalidOpcode :
    (∃ t, step (at0 0x76) = .next t ∧ t.last.isHalted = true ∧ t.cfg.hostResumesHalt = false) ∧
      (∃ t, step { at0 0x76 with cfg := { Config.default with hostResumesHalt := true } } = .next t ∧
        t.last.isHalted = true ∧ t.cfg.hostResumesHalt = true) ∧
      (∃ t, step (at0 0x00) = .next t ∧ t.last.isHalted = false) ∧
      step (at0 0xD3) = .fault (.invalidOpcode .primary 0xD3 0) :=
  ⟨⟨_, rfl, rfl, rfl⟩, ⟨_, rfl, rfl, rfl⟩, ⟨_, rfl, rfl⟩, rfl⟩

/-- A push on an external bus, and a step that stores on FlatBus. -/
theorem witness_BusIsMovedByTheRecordedAccessesAlone :
    (∃ t, exec (.pushRr .bc) { State.reset with cfg := { Config.default with bus := .external } } = .next t ∧
      t.busState = Config.busWrite (Config.busWrite 0 0xFFFF 0) 0xFFFE 0) ∧
      ∃ t, step (at0 0x02) = .next t := ⟨⟨_, rfl, rfl⟩, _, rfl⟩

end Sys2Proof.Machine.Tests
end

/-! ## State (10_state.md)

What a step can do to the registers that 10_state.md gives rules for, said once for all of `exec`, and the two fields
no meaning reads. The statements of the family are read off these. -/

namespace Sys2Proof.Machine

/-! ### What every completed meaning leaves -/

/-- The mask of R26 leaves a low nibble of 0. -/
theorem flagNibble_of_mask (v : Byte) : v &&& 0xF0 &&& 0x0F = 0 := by
  rw [BitVec.and_assoc]
  exact BitVec.and_zero

/-- The frame of an instruction: PC unless it transfers control, F if it writes no flag, an F in R26's form if it does,
and the parameters in any case. -/
structure Leaves (i : Instr) (s t : State) : Prop where
  pc : i.isTransfer = false → t.pc = s.pc
  flags : i.leavesFlags = true → t.f = s.f
  nibble : t.f = s.f ∨ t.flagNibbleZero
  config : SameConfig s t

section
variable {i : Instr} {s t u : State} {r : StepReport}

/-- A meaning that writes neither PC nor F. -/
theorem Leaves.of_move (h : (.next (u.report r) : Result) = .next t) (hp : u.pc = s.pc) (hf : u.f = s.f)
    (hc : u.cfg = s.cfg) (hw : u.written = s.written) : Leaves i s t := by
  cases h
  exact ⟨fun _ => hp, fun _ => hf, .inl hf, hc, hw⟩

/-- A transfer of control, which writes PC and no flag. -/
theorem Leaves.of_transfer (h : (.next (u.report r) : Result) = .next t) (hi : i.isTransfer = true) (hf : u.f = s.f)
    (hc : u.cfg = s.cfg) (hw : u.written = s.written) : Leaves i s t := by
  cases h
  exact ⟨fun hn => absurd hi (by simp [hn]), fun _ => hf, .inl hf, hc, hw⟩

/-- A meaning that ends in the one way an instruction writes flags (R120). -/
theorem Leaves.of_writeFlags {z n h c : Option Bool} (hx : (.next ((u.writeFlags z n h c).report r) : Result) = .next t)
    (hi : i.leavesFlags = false) (hp : u.pc = s.pc) (hc : u.cfg = s.cfg) (hw : u.written = s.written) :
    Leaves i s t := by
  cases hx
  exact ⟨fun _ => hp, fun hn => absurd hi (by simp [hn]), .inr (flagNibble_of_mask _), hc, hw⟩

/-- A conditional meaning (R320): both its paths. -/
theorem Leaves.of_ite {b : Bool} {x y : Result} (h : (if b then x else y) = .next t) (hx : x = .next t → Leaves i s t)
    (hy : y = .next t → Leaves i s t) : Leaves i s t := by
  cases b
  · exact hy h
  · exact hx h

end

/-- A pop's register write reaches F for AF alone (R305). -/
theorem State.setR16S_f (s : State) (rr : R16S) (v : Word) :
    (s.setR16S rr v).f = if rr = .af then loByte v &&& 0xF0 else s.f := by cases rr <;> rfl

/-- POP rr: only POP AF writes F, through the mask (R305, R26). -/
theorem execPopRr_leaves {rr : R16S} {s t : State} (h : execPopRr rr s = .next t) : Leaves (.popRr rr) s t := by
  cases rr with
  | af => cases h; exact ⟨fun _ => rfl, nofun, .inr (flagNibble_of_mask _), rfl, rfl⟩
  | bc | de | hl => exact .of_move h (by simp) (by simp [State.setR16S_f]) (by simp) (by simp)

/-- What a completed instruction leaves. The bare entry 0xCB, which no step decodes (R355), is left out. -/
theorem exec_leaves {i : Instr} {s t : State} (hi : i ≠ .prefixCB) (h : exec i s = .next t) : Leaves i s t := by
  cases i with
  | prefixCB => exact absurd rfl hi
  | invalidD3 | invalidDB | invalidDD | invalidE3 | invalidE4 | invalidEB | invalidEC | invalidED | invalidF4
  | invalidFC | invalidFD => exact absurd h nofun
  | popRr rr => exact execPopRr_leaves h
  | jpA16 | jpHL | jrE8 | callA16 | rstT | ret | reti =>
    exact .of_transfer h rfl (by simp) (by simp) (by simp)
  | jpCcA16 | jrCcE8 | callCcA16 | retCc =>
    exact .of_ite h (fun h => .of_transfer h rfl (by simp) (by simp) (by simp))
      (fun h => .of_transfer h rfl rfl rfl rfl)
  | nop | halt | stop | di | ei | ldAtA16SP | ldRrD16 | ldAtBCA | ldAtDEA | ldAtHLIncA | ldAtHLDecA | ldAAtBC | ldAAtDE
  | ldAAtHLInc | ldAAtHLDec | incRr | decRr | ldRD8 | ldAtHLD8 | ldRR | ldRAtHL | ldAtHLR | ldhAtA8A | ldhAAtA8
  | ldSPHL | ldAtCA | ldAtA16A | ldAAtC | ldAAtA16 | pushRr | resBR | resBAtHL | setBR | setBAtHL =>
    exact .of_move h (by simp) (by simp) (by simp) (by simp)
  | addHLRr | addSPE8 | ldHLSPE8 | incR | incAtHL | decR | decAtHL | rlca | rrca | rla | rra | daa | cpl | scf | ccf
  | addAR | addAAtHL | addAD8 | adcAR | adcAAtHL | adcAD8 | subR | subAtHL | subD8 | sbcAR | sbcAAtHL | sbcAD8
  | andR | andAtHL | andD8 | xorR | xorAtHL | xorD8 | orR | orAtHL | orD8 | cpR | cpAtHL | cpD8
  | rlcR | rlcAtHL | rrcR | rrcAtHL | rlR | rlAtHL | rrR | rrAtHL | slaR | slaAtHL | sraR | sraAtHL | swapR | swapAtHL
  | srlR | srlAtHL | bitBR | bitBAtHL =>
    exact .of_writeFlags h rfl (by simp) (by simp) (by simp)

/-- No step meets the bare entry 0xCB (R355). -/
theorem State.nextInstr_ne_prefixCB (s : State) : s.nextInstr ≠ .prefixCB := by
  rw [s.nextInstr_eq]
  exact decodeInstr_ne_prefixCB _ _ _ _

/-- What a completed step leaves, beside the fetch. -/
theorem step_leaves {s t : State} (h : step s = .next t) : Leaves s.nextInstr (s.afterFetch s.nextInstr.length) t := by
  obtain ⟨_, _, hx⟩ := step_next h
  exact exec_leaves s.nextInstr_ne_prefixCB hx

/-! ### The two fields no meaning reads -/

/-- The state with another IME and another last outcome. -/
def State.withUnread (s : State) (b : Bool) (r : StepReport) : State := { s with ime := b, last := r }

/-- The IME an instruction leaves, from the one it finds (R31). -/
def imeAfter : Instr → Bool → Bool
  | .di, _ => false
  | .ei, _ => true
  | .reti, _ => true
  | _, b => b

/-- A change of the next state, if there is one. -/
def mapNext (g : State → State) : Result → Result
  | .next t => .next (g t)
  | .fault r => .fault r
  | .refused r => .refused r

/-- A conditional meaning, path by path. -/
theorem mapNext_ite {g : State → State} {c : Bool} {x y x' y' : Result} (hx : x' = mapNext g x) (hy : y' = mapNext g y) :
    (if c then x' else y') = mapNext g (if c then x else y) := by
  cases c
  · exact hy
  · exact hx

/-- R31, R33: no meaning reads IME or the last outcome, and what it leaves in IME is the instruction's own or the IME it
found. -/
theorem exec_withUnread {i : Instr} (hi : i ≠ .prefixCB) (s : State) (b : Bool) (l : StepReport) :
    exec i (s.withUnread b l) = mapNext (·.setIme (imeAfter i b)) (exec i s) := by
  cases i with
  | prefixCB => exact absurd rfl hi
  | jrCcE8 | jpCcA16 | callCcA16 | retCc => exact mapNext_ite rfl rfl
  | incR r | decR r | rlcR r | rrcR r | rlR r | rrR r | slaR r | sraR r | swapR r | srlR r | ldRR r | ldRAtHL r | ldRD8 r
  | resBR _ r | setBR _ r => cases r <;> rfl
  | ldRrD16 rr | incRr rr | decRr rr | popRr rr => cases rr <;> rfl
  | _ => rfl

/-- A fetch reads neither them nor the record of accesses. -/
theorem State.afterFetch_unread (s : State) (b : Bool) (r : StepReport) (l : List Access) (n : Nat) :
    State.afterFetch { s with ime := b, last := r, accesses := l } n = (s.afterFetch n).withUnread b r :=
  calc
    _ = ((s.setIme b).afterFetch n).report r := (s.setIme b).afterFetch_of_last r l n
    _ = ((s.afterFetch n).setIme b).report r := congrArg (·.report r) (s.afterFetch_of_ime b n)

/-- So it finds the same instruction. -/
theorem State.nextInstr_unread (s : State) (b : Bool) (r : StepReport) (l : List Access) :
    State.nextInstr { s with ime := b, last := r, accesses := l } = s.nextInstr := by
  have hf := State.fetchByte_congr (s := s) (t := { s with ime := b, last := r, accesses := l }) rfl rfl rfl rfl
  simp only [State.nextInstr_eq, hf]

/-- A step reads neither IME, nor the last outcome, nor the record of accesses (R31, R33, R375). -/
theorem step_unread (s : State) (b : Bool) (r : StepReport) (l : List Access) :
    step { s with ime := b, last := r, accesses := l } = mapNext (·.setIme (imeAfter s.nextInstr b)) (step s) := by
  by_cases hw : s.written = Written.all
  · rw [step_eq hw, step_eq (s := { s with ime := b, last := r, accesses := l }) hw, s.nextInstr_unread,
      s.afterFetch_unread]
    exact mapNext_ite (exec_withUnread s.nextInstr_ne_prefixCB _ _ _) rfl
  · simp only [step, if_neg hw, mapNext]

/-- A completed step leaves in IME what its instruction does (R31): `step_unread` with nothing changed. -/
theorem step_ime {s t : State} (h : step s = .next t) : t.ime = imeAfter s.nextInstr s.ime := by
  have hs := step_unread s s.ime s.last s.accesses
  rw [h] at hs
  exact congrArg State.ime (Host.Outcome.next.inj hs)

/-- An answer and the same with another IME are equal but for it. -/
theorem equalButIme_mapNext (x : Result) (b : Bool) : EqualButIme x (mapNext (·.setIme b) x) := by
  cases x <;> rfl

/-! ### The low nibble of F under the host's moves (R26) -/

/-- A set writes F, if at all, through the mask. -/
theorem State.hostStore_nibble {s : State} (h : s.flagNibbleZero) (r : HostReg) (v : Nat) :
    (s.hostStore r v).flagNibbleZero := by
  cases r with
  | f | af => exact flagNibble_of_mask _
  | _ => exact h

theorem HostMove.apply_nibble {s : State} (h : s.flagNibbleZero) (m : HostMove) : (m.apply s).flagNibbleZero := by
  cases m with
  | reset => exact BitVec.zero_and
  | set r v => exact s.hostStore_nibble h r v
  | poke | bus => exact h

/-- A completed step keeps it: F is as before or in R26's form. -/
theorem step_nibble {s t : State} (hs : s.flagNibbleZero) (h : step s = .next t) : t.flagNibbleZero := by
  rcases (step_leaves h).nibble with hf | hf
  · rw [State.flagNibbleZero, hf]
    exact hs
  · exact hf

/-! ### The statements about a step -/

/-- Settles O6: `Leaves` holds of every completed step, `HostMove.apply_nibble` of the host's moves. -/
theorem lowNibbleOfFlagsStaysZero : Obligations.LowNibbleOfFlagsStaysZero :=
  ⟨State.setF_f, fun s v => ⟨s.setAF_a v, s.setAF_f v⟩, fun _ _ => step_nibble, fun _ m h => m.apply_nibble h⟩

/-- Settles O13: the fetch advances PC by the length, and no instruction but a transfer writes it. -/
theorem stepAdvancesPcByTheLength : Obligations.StepAdvancesPcByTheLength :=
  fun _ _ h hi => (step_leaves h).pc hi

/-- Settles O19: a step does not see the last outcome or the record of accesses, whatever they were. -/
theorem stepDependsOnNoEarlierOutcome : Obligations.StepDependsOnNoEarlierOutcome :=
  fun s r l => (step_unread s s.ime r l).trans (step_unread s s.ime s.last s.accesses).symm

/-- Settles O20: the step of a state is the step of the same state with IME written in, so it leaves `imeAfter`. -/
theorem onlyDiEiAndRetiWriteIme : Obligations.OnlyDiEiAndRetiWriteIme := by
  intro s t h
  have hi := step_ime h
  split <;> simp [imeAfter, *]

/-- Settles O21: another IME goes through the step untouched or is overwritten. -/
theorem noInstructionReadsIme : Obligations.NoInstructionReadsIme := by
  intro s b
  rw [show step { s with ime := b } = _ from step_unread s b s.last s.accesses]
  exact equalButIme_mapNext _ _

/-- Settles O23: the frame of every instruction; the bare entry 0xCB is none of these. -/
theorem flaglessInstructionsLeaveFlags : Obligations.FlaglessInstructionsLeaveFlags := by
  intro i s t hi h
  have hl := exec_leaves (by rintro rfl; cases hi) h
  exact ⟨hl.flags hi, hl.config⟩

/-! ### Reset, the core as created and the host's accessors (R35 to R37, R430, R432) -/

/-- The mask of R26 on a byte as a number. -/
theorem toNat_mask (x : Byte) : (x &&& 240#8).toNat = x.toNat / 16 * 16 := by
  have h := mask_low_nibble x.toNat
  rw [Nat.mod_eq_of_lt x.isLt] at h
  exact (BitVec.toNat_and ..).trans h

/-- AF after a write of AF: the word with its low nibble cleared (R23, R26). -/
theorem State.setAF_af_toNat (s : State) (w : Word) : (s.setAF w).af.toNat = w.toNat / 16 * 16 := by
  have hf : (s.setAF w).f.toNat = _ := toNat_mask (loByte w)
  rw [State.af_toNat, hf, State.setAF_a, hiByte_toNat, loByte_toNat]
  omega

theorem joinBytes_zero : joinBytes 0#8 0#8 = 0#16 := by decide

/-- A get of a name behind which every field is written answers the value (R37). -/
theorem hostGet_of_has {s : State} {r : HostReg} (h : s.written.has r = true) : hostGet r s = .ok (s.hostValue r) :=
  if_pos h

/-- A get of a name with an unwritten field behind it faults (R35). -/
theorem hostGet_of_not_has {s : State} {r : HostReg} (h : s.written.has r = false) :
    hostGet r s = .error (.unwrittenField r) := by
  simp [hostGet, h]

/-- What a set marks as written counts as written (R35). -/
theorem Written.has_mark (w : Written) (r : HostReg) : (w.mark r).has r = true := by cases r <;> rfl

/-- Nothing counts as written in the core as created (R35). -/
theorem Written.has_none (r : HostReg) : Written.none.has r = false := by cases r <;> rfl

/-! An accessor sees its fields alone, and a set writes its fields alone; so one that shares no field with the other is
left by it (R22, R23). -/

theorem HostReg.fields_of_mem_fields {x q : HostReg} (h : x ∈ q.fields) : x.fields = [x] := by
  cases q with
  | af | bc | de | hl => rcases List.mem_pair.1 h with rfl | rfl <;> rfl
  | _ => rw [List.mem_singleton.1 h]; rfl

theorem State.hostValue_congr {s t : State} {q : HostReg} (h : ∀ x ∈ q.fields, t.hostValue x = s.hostValue x) :
    t.hostValue q = s.hostValue q := by
  cases q with
  | af | bc | de | hl =>
    have hh := h _ List.mem_cons_self
    have hl := h _ (List.mem_cons_of_mem _ List.mem_cons_self)
    exact congrArg BitVec.toNat (congrArg₂ joinBytes (BitVec.eq_of_toNat_eq hh) (BitVec.eq_of_toNat_eq hl))
  | _ => exact h _ List.mem_cons_self

theorem Written.has_congr {w w' : Written} {q : HostReg} (h : ∀ x ∈ q.fields, w'.has x = w.has x) :
    w'.has q = w.has q := by
  cases q with
  | af | bc | de | hl =>
    have hh := h _ List.mem_cons_self
    have hl := h _ (List.mem_cons_of_mem _ List.mem_cons_self)
    exact congrArg₂ and hh hl
  | _ => exact h _ List.mem_cons_self

theorem State.hostStore_field {x r : HostReg} (s : State) (v : Nat) (hx : x.fields = [x]) (hr : x ∉ r.fields) :
    (s.hostStore r v).hostValue x = s.hostValue x := by
  cases x <;> cases r <;> simp [HostReg.fields, State.hostStore, State.hostValue] at hx hr ⊢

theorem Written.mark_field {x r : HostReg} (w : Written) (hx : x.fields = [x]) (hr : x ∉ r.fields) :
    (w.mark r).has x = w.has x := by
  cases x <;> cases r <;> simp [HostReg.fields, Written.mark, Written.has] at hx hr ⊢

theorem hostSet_value_other {q r : HostReg} (s : State) (v : Nat) (h : ∀ x ∈ q.fields, x ∉ r.fields) :
    (hostSet r v s).hostValue q = s.hostValue q :=
  State.hostValue_congr fun x hq => s.hostStore_field v (HostReg.fields_of_mem_fields hq) (h x hq)

theorem hostSet_has_other {q r : HostReg} (s : State) (v : Nat) (h : ∀ x ∈ q.fields, x ∉ r.fields) :
    (hostSet r v s).written.has q = s.written.has q :=
  Written.has_congr fun x hq => s.written.mark_field (HostReg.fields_of_mem_fields hq) (h x hq)

/-- Settles O1: the fields as `coreReset` writes them, and the views and flags of zeros. -/
theorem resetLeavesTheDocumentedDefaults : Obligations.ResetLeavesTheDocumentedDefaults := by
  refine ⟨fun s => ⟨?_, ?_, ?_, ?_⟩, ?_⟩
  · simp
  · simp [State.af, State.bc, State.de, State.hl, joinBytes_zero]
  · simp [State.flagZ, State.flagN, State.flagH, State.flagC]
  · simp
  · exact ⟨rfl, rfl, rfl, rfl, rfl, rfl, rfl, rfl, rfl, rfl, rfl⟩

/-- Settles O2, clause by clause from the marks. -/
theorem nothingRunsBeforeEveryFieldIsWritten : Obligations.NothingRunsBeforeEveryFieldIsWritten :=
  ⟨fun _ hw => if_neg hw, fun _ _ => hostGet_of_not_has, fun s r _ => s.written.has_mark r,
    fun r => hostGet_of_not_has (Written.has_none r), State.coreReset_written⟩

/-- Settles O3: the value set is read back through its own truncation; the rest is the frame of a set. -/
theorem hostGetAfterSetAnswersTheTruncatedValue : Obligations.HostGetAfterSetAnswersTheTruncatedValue := by
  intro s r v
  refine ⟨?_, fun q hq => ?_, ?_⟩
  · rw [hostGet_of_has (s.written.has_mark r)]
    congr 1
    cases r with
    | a | b | c | d | e | h | l | pc | sp => rfl
    | f => exact toNat_mask _
    | bc | de | hl => exact congrArg BitVec.toNat (joinBytes_hi_lo _)
    | af => exact s.setAF_af_toNat _
    | ime =>
      show (decide (v % 2 = 1)).toNat = v % 2
      rcases Nat.mod_two_eq_zero_or_one v with h | h <;> rw [h] <;> rfl
  · have hv := hostSet_value_other s v hq
    have hw := hostSet_has_other s v hq
    exact ⟨hv, hw, by simp only [hostGet, hv, hw]⟩
  · cases r <;> exact ⟨rfl, rfl, rfl, rfl⟩

/-- Settles O4: the views as numbers, the halves of a word, and the mask of R26. -/
theorem pairViewsAliasTheirHalves : Obligations.PairViewsAliasTheirHalves := by
  intro s
  refine ⟨⟨s.af_toNat, s.bc_toNat, s.de_toNat, s.hl_toNat⟩, fun v => ?_, fun x y => ?_⟩
  · simp [hiByte_toNat, loByte_toNat, toNat_mask, -BitVec.toNat_and]
  · simp [State.setR8, State.af_toNat, State.bc_toNat, State.de_toNat, State.hl_toNat, toNat_mask, -BitVec.toNat_and]

/-- Settles O5: F is 0 and nothing is listed in either state. -/
theorem invariantsHoldAtReset : Obligations.InvariantsHoldAtReset := ⟨⟨rfl, rfl⟩, rfl, rfl⟩

end Sys2Proof.Machine

/-! ## Memory (20_memory.md)

What an instruction does to what is behind the bus, said once for all of `exec`: it moves it by the accesses it records,
and those of an instruction that stores nothing are reads. The statements of the family are read off this. -/

namespace Sys2Proof.Machine

/-! ### What a list of accesses does (R61 to R63) -/

/-- A canonical FlatBus is canonical after any accesses. -/
theorem BusTook.wf {k : BusKind} {l : List Access} {b c : Memory × Nat} (h : BusTook k b l c) (hb : b.1.wf = true) :
    c.1.wf = true := by
  induction l generalizing b with
  | nil =>
    cases h
    exact hb
  | cons x l ih =>
    obtain ⟨_, hl⟩ := h
    refine ih hl ?_
    obtain ⟨kind, a, v⟩ := x
    cases k with
    | external => cases kind <;> exact hb
    | flat =>
      cases kind with
      | read => exact hb
      | write => exact Memory.wf_write hb a v

/-- Reads leave every byte (R62). -/
theorem BusTook.mem_of_reads {k : BusKind} {l : List Access} {b c : Memory × Nat} (h : BusTook k b l c)
    (hr : ∀ x ∈ l, x.kind = .read) : c.1 = b.1 := by
  induction l generalizing b with
  | nil => exact congrArg Prod.fst h
  | cons x l ih =>
    obtain ⟨hx, hr⟩ := List.forall_mem_cons.1 hr
    obtain ⟨_, hl⟩ := h
    refine (ih hl hr).trans ?_
    cases k <;> simp only [busAfter, hx]

/-- So what is behind the bus, moved by recorded accesses, stays canonical. -/
theorem BusFollows.memCanonical {s t : State} (h : BusFollows s t) (hs : s.memCanonical) : t.memCanonical := by
  obtain ⟨_, _, hl⟩ := h
  exact hl.wf hs

/-! ### What an instruction does to the bus -/

/-- The accesses newly recorded in `t` are reads. -/
def RecordsReads (s t : State) : Prop := ∃ l, Accessed l s t ∧ ∀ x ∈ l, x.kind = .read

/-- What is behind the bus moved by the recorded accesses alone, by reads alone if the instruction stores nothing
(R65, R70). -/
structure BusUse (i : Instr) (s t : State) : Prop where
  follows : BusFollows s t
  reads : i.mayStore = false → RecordsReads s t

/-- Where reads alone are recorded, every byte is as before. -/
theorem BusFollows.mem_of_reads {s t : State} (h : BusFollows s t) (hr : RecordsReads s t) : t.mem = s.mem := by
  obtain ⟨l, ha, hl⟩ := h
  obtain ⟨l', ha', hr⟩ := hr
  obtain rfl : l = l' := List.append_cancel_left (ha.symm.trans ha')
  exact hl.mem_of_reads hr

section
variable {i : Instr} {s t u v : State} {r : StepReport}

theorem BusUse.refl (i : Instr) (s : State) : BusUse i s s :=
  ⟨.refl s, fun _ => ⟨[], (List.append_nil _).symm, nofun⟩⟩

/-- One bus read (R62). -/
theorem BusUse.read (s : State) (a : Addr) : BusUse i s (s.memRead a).2 :=
  ⟨s.memRead_follows a, fun _ => ⟨[⟨.read, a, s.busValue a⟩], rfl, by simp⟩⟩

/-- The two reads of a pop (R301). -/
theorem BusUse.pop (s : State) : BusUse i s s.pop16.2 :=
  ⟨s.pop16_follows, fun _ => ⟨_, s.pop16_accesses, by simp⟩⟩

/-- A storing form may write. -/
theorem BusUse.store (hi : i.mayStore = true) (h : BusFollows s t) : BusUse i s t :=
  ⟨h, fun hn => absurd hi (by simp [hn])⟩

/-- A meaning that completes after its accesses with an update of registers, flags or control fields. -/
theorem BusUse.report (hu : BusUse i s u) (h : (.next (v.report r) : Result) = .next t) (ha : v.accesses = u.accesses)
    (hm : v.mem = u.mem) (hb : v.busState = u.busState) : BusUse i s t := by
  cases h
  refine ⟨hu.follows.then ha hm hb, fun hi => ?_⟩
  obtain ⟨l, hl, hr⟩ := hu.reads hi
  exact ⟨l, ha.trans hl, hr⟩

/-- A conditional meaning (R320): both its paths. -/
theorem BusUse.of_ite {b : Bool} {x y : Result} (h : (if b then x else y) = .next t) (hx : x = .next t → BusUse i s t)
    (hy : y = .next t → BusUse i s t) : BusUse i s t := by
  cases b
  · exact hy h
  · exact hx h

theorem loadA_busUse {a : Addr} {m : Nat} (h : loadA a m s = .next t) : BusUse i s t :=
  (BusUse.read s a).report h rfl rfl rfl

end

/-- How a completed instruction uses the bus. The bare entry 0xCB, which runs another instruction (R355), is left out. -/
theorem exec_busUse {i : Instr} {s t : State} (hi : i ≠ .prefixCB) (h : exec i s = .next t) : BusUse i s t := by
  cases i with
  | prefixCB => exact absurd rfl hi
  | invalidD3 | invalidDB | invalidDD | invalidE3 | invalidE4 | invalidEB | invalidEC | invalidED | invalidF4
  | invalidFC | invalidFD => exact absurd h nofun
  | nop | halt | stop | di | ei | jpA16 | jpHL | jrE8 | ldRrD16 | ldRD8 | ldRR | ldSPHL | ldHLSPE8 | addHLRr | addSPE8
  | incRr | decRr | incR | decR | rlca | rrca | rla | rra | daa | cpl | scf | ccf
  | addAR | addAD8 | adcAR | adcAD8 | subR | subD8 | sbcAR | sbcAD8 | andR | andD8 | xorR | xorD8 | orR | orD8 | cpR | cpD8
  | rlcR | rrcR | rlR | rrR | slaR | sraR | swapR | srlR | bitBR | resBR | setBR =>
    exact (BusUse.refl _ s).report h (by simp) (by simp) (by simp)
  | ldRAtHL | ldAAtHLInc | ldAAtHLDec | addAAtHL | adcAAtHL | subAtHL | sbcAAtHL | andAtHL | xorAtHL | orAtHL | cpAtHL
  | bitBAtHL =>
    exact (BusUse.read s s.hl).report h (by simp) (by simp) (by simp)
  | ldAAtBC | ldAAtDE | ldAAtA16 | ldhAAtA8 | ldAAtC => exact loadA_busUse h
  | popRr | ret | reti => exact (BusUse.pop s).report h (by simp) (by simp) (by simp)
  | jpCcA16 | jrCcE8 =>
    exact .of_ite h (fun h => (BusUse.refl _ s).report h rfl rfl rfl) (fun h => (BusUse.refl _ s).report h rfl rfl rfl)
  | retCc =>
    exact .of_ite h (fun h => (BusUse.pop s).report h rfl rfl rfl) (fun h => (BusUse.refl _ s).report h rfl rfl rfl)
  | callCcA16 =>
    exact .of_ite h (fun h => .store rfl ((callTo_follows _ s).done h))
      (fun h => (BusUse.refl _ s).report h rfl rfl rfl)
  | callA16 | rstT => exact .store rfl ((callTo_follows _ s).done h)
  | pushRr => exact .store rfl ((s.push16_follows _).done h)
  | ldAtA16SP => exact .store rfl ((s.memWrite16_follows _ _).done h)
  | ldAtHLD8 | ldAtHLR => exact .store rfl ((s.memWrite_follows _ _).done h)
  | ldAtHLIncA | ldAtHLDecA => exact (BusUse.store rfl (s.memWrite_follows s.hl s.a)).report h rfl rfl rfl
  | ldAtBCA | ldAtDEA | ldhAtA8A | ldAtCA | ldAtA16A => exact .store rfl (storeA_follows h)
  | incAtHL | decAtHL => exact .store rfl (stepAtHL_follows h)
  | rlcAtHL | rrcAtHL | slaAtHL | sraAtHL | swapAtHL | srlAtHL => exact .store rfl (shiftAtHL_follows h)
  | rlAtHL => exact .store rfl (shiftAtHL_follows (f := (rl8 · s.flagC)) h)
  | rrAtHL => exact .store rfl (shiftAtHL_follows (f := (rr8 · s.flagC)) h)
  | resBAtHL b => exact .store rfl (modifyAtHL_follows (f := (· &&& ~~~bitMask b)) h)
  | setBAtHL b => exact .store rfl (modifyAtHL_follows (f := (· ||| bitMask b)) h)

/-- A completed dispatch of a secondary entry is a completed instruction other than the bare entry (R102, R371). -/
theorem runSecondary_next {op : Byte} {a : Addr} {i : Instr} {s t : State} (h : runSecondary op a i s = .next t) :
    i ≠ .prefixCB ∧ exec i s = .next t := by
  cases i with
  | rlcR | rlcAtHL | rrcR | rrcAtHL | rlR | rlAtHL | rrR | rrAtHL | slaR | slaAtHL | sraR | sraAtHL | swapR | swapAtHL
  | srlR | srlAtHL | bitBR | bitBAtHL | resBR | resBAtHL | setBR | setBAtHL => exact ⟨nofun, h⟩
  | _ => exact absurd h nofun

/-- The bare entry 0xCB: one fetch, then a secondary instruction (R355). -/
theorem execPrefixCB_follows {s t : State} (h : execPrefixCB s = .next t) : BusFollows s t := by
  obtain ⟨hi, hx⟩ := runSecondary_next h
  exact s.fetch8_follows.trans rfl (exec_busUse hi hx).follows

/-- Every completed instruction moves what is behind the bus by the accesses it records (R70). -/
theorem exec_follows {i : Instr} {s t : State} (h : exec i s = .next t) : BusFollows s t := by
  by_cases hi : i = .prefixCB
  · subst hi
    exact execPrefixCB_follows h
  · exact (exec_busUse hi h).follows

/-- A completed step does so from an empty record, its fetches first (R77, R371). -/
theorem step_follows {s t : State} (h : step s = .next t) : BusFollows s.beginStep t := by
  obtain ⟨_, _, hx⟩ := step_next h
  rw [← s.fetchInstr_state] at hx
  have hc : s.beginStep.fetchInstr.2.cfg = s.cfg := by rw [s.fetchInstr_state]; rfl
  exact s.beginStep.fetchInstr_follows.trans (congrArg Config.bus hc) (exec_follows hx)

/-! ### The host's moves -/

/-- A set is no change of the bus (O3's frame), and a poke writes one byte (R74). -/
theorem HostMove.apply_memCanonical {s : State} (h : s.memCanonical) (m : HostMove) : (m.apply s).memCanonical := by
  cases m with
  | reset | bus => exact h
  | poke a v => exact Memory.wf_write h a v
  | set r v =>
    obtain ⟨_, _, hb, _⟩ := hostGetAfterSetAnswersTheTruncatedValue s r v
    have hm : (hostSet r v s).mem = s.mem := congrArg Prod.fst hb
    exact (congrArg Memory.wf hm).trans h

/-! ### The statements -/

/-- Settles O7: a step moves memory by bus accesses alone, and no access breaks the canonical form. -/
theorem flatBusStaysCanonical : Obligations.FlatBusStaysCanonical :=
  ⟨fun _ _ hs h => (step_follows h).memCanonical hs, fun _ m h => m.apply_memCanonical h,
    fun s nbits w h => placeBytes_wf h s.pc (tableBytes nbits w)⟩

/-- Settles O22: a form that stores nothing records reads alone, and reads leave every byte. -/
theorem onlyStoringFormsChangeMemory : Obligations.OnlyStoringFormsChangeMemory := by
  intro i s t hi h
  have hu := exec_busUse (by rintro rfl; cases hi) h
  refine ⟨fun a _ => by rw [hu.follows.mem_of_reads (hu.reads hi)], ?_⟩
  obtain ⟨l, ha, hr⟩ := hu.reads hi
  intro x hx
  rw [ha] at hx
  exact (List.mem_append.1 hx).imp_right (hr x)

/-- Settles O60: `exec_follows`, and `step_follows` from the empty record of a step's beginning. -/
theorem busIsMovedByTheRecordedAccessesAlone : Obligations.BusIsMovedByTheRecordedAccessesAlone := by
  refine ⟨fun _ _ _ => exec_follows, fun s t h => ?_⟩
  obtain ⟨l, ha, hl⟩ := step_follows h
  obtain rfl : t.accesses = l := ha
  exact hl

end Sys2Proof.Machine

/-! ## Encoding (30_encoding.md)

Encoding a decoded entry gives back its bytes, said once for each of the three lengths of R90. As every instruction is
the entry of some bytes, the round trip from the instruction follows from the one from the bytes. -/

namespace Sys2Proof.Machine

/-! ### Bytes to instruction to bytes -/

/-- The secondary table, entry by entry (R102). -/
theorem encode_decodeSecondary (bo : ByteOrder) (op : Byte) : encode bo (decodeSecondary op) = [0xCB, op] := by
  revert op
  cases bo <;> decide +kernel

/-- The format `OP` (R90): no operand byte is looked at, so the 256 first bytes are all there is. -/
theorem encode_decodeInstr_of_length_one (bo : ByteOrder) {op : Byte} (h : lengthOfOpcode op = 1) (x y : Byte) :
    encode bo (decodeInstr bo op x y) = [op] := by
  rw [decodeInstr_of_length_one bo h]
  rw [← decodeInstr_length bo op 0 0] at h
  revert op
  cases bo <;> decide +kernel

/-- The formats with one byte after the first (R90): it stands in the entry as it is, but after 0xCB, where it is the
secondary opcode. -/
theorem encode_decodeInstr_of_mem_twoByte (bo : ByteOrder) {op : Byte} (h : op ∈ twoByteOpcodes) (x y : Byte) :
    encode bo (decodeInstr bo op x y) = [op, x] := by
  have hl : op ∈ twoByteOpcodes.dropLast ++ [0xCB] := h
  rcases List.mem_append.1 hl with hm | hp
  · fin_cases hm <;> rfl
  · obtain rfl := List.mem_singleton.1 hp
    exact encode_decodeSecondary bo x

/-- The format `OP_D16` (R90): the two operand bytes stand assembled in the entry (R96). -/
theorem encode_decodeInstr_of_mem_threeByte (bo : ByteOrder) {op : Byte} (h : op ∈ threeByteOpcodes) (x y : Byte) :
    encode bo (decodeInstr bo op x y) = [op, x, y] := by
  have hw : encode bo (decodeInstr bo op x y) = withWord bo op (assemble bo x y) := by fin_cases h <;> rfl
  rw [hw, withWord, lowerByte_assemble, upperByte_assemble]

/-- The bytes of a decoded entry are those its format has (R90, R106). -/
theorem encode_decodeInstr (bo : ByteOrder) (op x y : Byte) :
    encode bo (decodeInstr bo op x y) = [op, x, y].take (lengthOfOpcode op) := by
  by_cases h3 : op ∈ threeByteOpcodes
  · rw [encode_decodeInstr_of_mem_threeByte bo h3, lengthOfOpcode, if_pos h3]
    rfl
  · by_cases h2 : op ∈ twoByteOpcodes
    · rw [encode_decodeInstr_of_mem_twoByte bo h2, lengthOfOpcode, if_neg h3, if_pos h2]
      rfl
    · have h1 : lengthOfOpcode op = 1 := by rw [lengthOfOpcode, if_neg h3, if_neg h2]
      rw [encode_decodeInstr_of_length_one bo h1, h1]
      rfl

/-- Settles O9: `encode_decodeInstr`, and what the first byte says of the entry. -/
theorem encodeOfDecodeIsTheBytes : Obligations.EncodeOfDecodeIsTheBytes := by
  intro bo op x y
  refine ⟨encode_decodeInstr bo op x y, decodeInstr_wellFormed bo op x y, decodeInstr_length bo op x y, ?_⟩
  rcases lengthOfOpcode_cases op with h | h | h <;> rw [h] <;> decide

/-! ### Instruction to bytes to instruction -/

/-- The decoder on as many bytes as the first byte asks for, whatever follows them (R106). -/
theorem decode_take_append (bo : ByteOrder) (op x y : Byte) (rest : List Byte) :
    decode bo ([op, x, y].take (lengthOfOpcode op) ++ rest) = .ok (decodeInstr bo op x y, rest) := by
  rcases lengthOfOpcode_cases op with h | h | h
  · simp [decode, h, decodeInstr_of_length_one bo h x y]
  · simp [decode, h, decodeInstr_of_length_two bo h x y]
  · simp [decode, h]

/-- The octal digits of an opcode byte are its fields (R91). -/
theorem fields_octal (x : BitVec 2) (y z : BitVec 3) :
    fieldX (octal x y z) = x ∧ fieldY (octal x y z) = y ∧ fieldZ (octal x y z) = z := by
  refine ⟨?_, ?_, ?_⟩ <;> ext i hi <;> grind [octal, fieldX, fieldY, fieldZ]

/-- R93: an 8-bit register is read back from its index. -/
theorem R8.ofField_index (r : R8) : R8.ofField r.index = some r := by cases r <;> rfl

/-- An instruction is encoded in at least one byte (R90). -/
theorem exists_encode_eq_cons (bo : ByteOrder) (i : Instr) : ∃ op bs, encode bo i = op :: bs := by
  cases i <;> exact ⟨_, _, rfl⟩

/-- Every instruction is the entry of its own bytes (R98 to R104). -/
theorem decodeInstr_of_encode {bo : ByteOrder} {i : Instr} {op : Byte} {bs : List Byte} (hi : i.wellFormed = true)
    (h : encode bo i = op :: bs) : decodeInstr bo op (bs.headD 0) (bs.tail.headD 0) = i := by
  cases i with
  | prefixCB => cases hi
  | rstT t =>
    cases h
    simp only [decodeInstr, decodeQuadrant3, fields_octal]
    rfl
  | incR r | decR r | ldRD8 r | ldRAtHL r | ldAtHLR r | addAR r | adcAR r | subR r | sbcAR r | andR r | xorR r | orR r
  | cpR r | rlcR r | rrcR r | rlR r | rrR r | slaR r | sraR r | swapR r | srlR r =>
    cases h
    cases r <;> rfl
  | ldRR dst src =>
    cases h
    cases dst <;> cases src <;> rfl
  | addHLRr rr | incRr rr | decRr rr | popRr rr | pushRr rr =>
    cases h
    cases rr <;> rfl
  | jrCcE8 cc | retCc cc =>
    cases h
    cases cc <;> rfl
  | bitBR | resBR | setBR | bitBAtHL | resBAtHL | setBAtHL =>
    cases h
    show decodeSecondary (octal _ _ _) = _
    simp only [decodeSecondary, fields_octal, R8.ofField_index]
    rfl
  | ldAtA16SP d | ldAtA16A d | ldAAtA16 d | jpA16 d | callA16 d =>
    cases h
    exact congrArg _ (assemble_split bo d)
  | ldRrD16 rr d =>
    cases h
    cases rr <;> exact congrArg _ (assemble_split bo d)
  | jpCcA16 cc d | callCcA16 cc d =>
    cases h
    cases cc <;> exact congrArg _ (assemble_split bo d)
  | _ =>
    cases h
    rfl

/-- Settles O8: an instruction is a decoded entry, its bytes are those decoded, and they decode to it. -/
theorem decodeOfEncodeIsTheInstruction : Obligations.DecodeOfEncodeIsTheInstruction := by
  intro bo i rest hi
  obtain ⟨op, bs, h⟩ := exists_encode_eq_cons bo i
  obtain rfl := decodeInstr_of_encode hi h
  rw [encode_decodeInstr, decode_take_append]

/-! ### The invalid entries (R104) -/

/-- An invalid entry is encoded in its byte alone (R104). -/
theorem encode_of_isInvalid (bo : ByteOrder) {i : Instr} (h : i.isInvalid = true) :
    ∃ b ∈ invalidBytes, encode bo i = [b] := by
  cases i with
  | invalidD3 | invalidDB | invalidDD | invalidE3 | invalidE4 | invalidEB | invalidEC | invalidED | invalidF4
  | invalidFC | invalidFD => exact ⟨_, by decide, rfl⟩
  | _ => cases h

/-- The invalid entries alone have no provenance tier (R7, R107). -/
theorem isInvalid_of_tierOf_eq_none {i : Instr} (h : tierOf i = none) : i.isInvalid = true := by
  cases i with
  | invalidD3 | invalidDB | invalidDD | invalidE3 | invalidE4 | invalidEB | invalidEC | invalidED | invalidF4
  | invalidFC | invalidFD => rfl
  | _ => cases h

/-- An entry is encoded in the bytes it was decoded from, so an invalid one was decoded from its own byte (R104). -/
theorem decodeInstr_isInvalid_iff (bo : ByteOrder) (op x y : Byte) :
    (decodeInstr bo op x y).isInvalid = true ↔ op ∈ invalidBytes := by
  constructor
  · intro hi
    obtain ⟨b, hb, he⟩ := encode_of_isInvalid bo hi
    rw [encode_decodeInstr] at he
    rcases lengthOfOpcode_cases op with h | h | h <;> rw [h] at he <;> cases he
    exact hb
  · intro hm
    fin_cases hm <;> rfl

/-- No secondary entry is invalid: it is encoded in two bytes (R102). -/
theorem decodeSecondary_not_isInvalid (op : Byte) : (decodeSecondary op).isInvalid = false := by
  refine Bool.eq_false_iff.2 fun hi => ?_
  obtain ⟨b, _, he⟩ := encode_of_isInvalid .le hi
  rw [encode_decodeSecondary] at he
  cases he

/-- Settles O10: the first byte decides, and a secondary entry, being valid, has a tier. -/
theorem invalidEntriesAreExactlyTheElevenBytes : Obligations.InvalidEntriesAreExactlyTheElevenBytes := by
  refine ⟨decodeInstr_isInvalid_iff, fun op => ⟨decodeSecondary_not_isInvalid op, fun ht => ?_⟩⟩
  have hi := isInvalid_of_tierOf_eq_none ht
  rw [decodeSecondary_not_isInvalid] at hi
  cases hi

/-- Settles O11: each word evaluated. -/
theorem sampleWordsDecodeToTheirInstructions : Obligations.SampleWordsDecodeToTheirInstructions :=
  ⟨rfl, rfl, rfl, rfl, rfl, rfl, rfl, rfl, rfl, rfl, rfl, rfl⟩

/-! ### Admission (R107) -/

/-- An admitted instruction runs on the state after the fetch. -/
theorem step_of_admits {s : State} {k : Admit} {t : Option Tier} (hw : s.written = Written.all)
    (hk : s.cfg.admission = k) (ht : tierOf s.nextInstr = t) (h : admits k t = true) :
    step s = exec s.nextInstr s.beginStep.fetchInstr.2 := by
  subst hk ht
  rw [step_eq hw, if_pos h, s.fetchInstr_state]

/-- Any other is refused by name. -/
theorem step_of_not_admits {s : State} {k : Admit} {t : Option Tier} (hw : s.written = Written.all)
    (hk : s.cfg.admission = k) (ht : tierOf s.nextInstr = t) (h : admits k t = false) :
    step s = .refused (.notAdmitted s.nextInstr) := by
  subst hk ht
  rw [step_eq hw, if_neg (Bool.eq_false_iff.1 h)]

/-- Settles O14: `admits` evaluated at each parameter and tier. -/
theorem admissionRefusesExactlyTheTiersAbove : Obligations.AdmissionRefusesExactlyTheTiersAbove := by
  intro s hw
  refine ⟨fun hk => step_of_admits hw hk rfl rfl, fun hk => ⟨fun ht => ?_, ?_⟩, fun hk => ⟨?_, fun ht => ?_⟩⟩
  · exact step_of_not_admits hw hk ht rfl
  · rintro (ht | ht) <;> exact step_of_admits hw hk ht rfl
  · rintro (ht | ht) <;> exact step_of_not_admits hw hk ht rfl
  · exact step_of_admits hw hk ht rfl

end Sys2Proof.Machine

/-! ## 8-bit arithmetic and logic (41_alu8.md)

Every instruction of the family is one of the shared operations `aluAcc`, `aluFlags`, `stepR8` and `stepAtHL` on the state
after its operand has been read. Which one is said once for each instruction, and what the operand's read adds to the
frame once for all; the primitives of 40_flag_evaluator.md are then put in the numbers the rules give. -/

namespace Sys2Proof.Machine

/-! ### The operand (R93, R150 to R173) -/

/-- The state an ALU instruction works on: the bus read of its operand, if it has one, made. -/
def Src.afterRead (s : State) : Src → State
  | .atHL => (s.memRead s.hl).2
  | .reg _ | .imm _ => s

/-- All but F and the registers listed is as before, the bus accesses are those listed, and the outcome is
`Retired m`. -/
def Frame (rs : List R8) (l : List Access) (m : Nat) (s t : State) : Prop :=
  SameR8Except rs s t ∧ SameMemoryExcept [] s t ∧ SameControl s t ∧ SameConfig s t ∧ Accessed l s t ∧ Retired m s t

/-- The operand's read adds its access to the record and nothing else (R62). -/
theorem Frame.of_afterRead {rs : List R8} {m : Nat} {s t : State} (x : Src) (h : Frame rs [] m (x.afterRead s) t) :
    Frame rs (x.accesses s) m s t := by
  cases x with
  | reg | imm => exact h
  | atHL =>
    obtain ⟨hreg, hmem, hctl, hcfg, hacc, hret⟩ := h
    refine ⟨fun r hr => (hreg r hr).trans (s.getR8_memRead s.hl r), hmem, hctl, hcfg, ?_, hret⟩
    rw [Accessed, hacc, List.append_nil]
    rfl

theorem aluAcc_operand (o : Alu8) (x : Src) (s : State) : ∃ t, aluAcc o x.cycles (x.afterRead s) = .next t ∧
    t.a = o.res ∧ t.f = packFlags o.z o.n o.h o.c ∧ Frame [.a] (x.accesses s) x.cycles s t := by
  obtain ⟨t, hx, ha, hf, hframe⟩ := aluAcc_spec o x.cycles (x.afterRead s)
  exact ⟨t, hx, ha, hf, .of_afterRead x hframe⟩

theorem aluFlags_operand (o : Alu8) (x : Src) (s : State) : ∃ t, aluFlags o x.cycles (x.afterRead s) = .next t ∧
    t.f = packFlags o.z o.n o.h o.c ∧ Frame [] (x.accesses s) x.cycles s t := by
  obtain ⟨t, hx, hf, hframe⟩ := aluFlags_spec o x.cycles (x.afterRead s)
  exact ⟨t, hx, hf, .of_afterRead x hframe⟩

/-! ### Which operation each instruction is -/

section
variable (x : Src) (s : State)

theorem exec_addForm : exec (addForm x) s = aluAcc (add8 s.a (x.value s) false) x.cycles (x.afterRead s) := by
  cases x <;> rfl

theorem exec_adcForm : exec (adcForm x) s = aluAcc (add8 s.a (x.value s) s.flagC) x.cycles (x.afterRead s) := by
  cases x <;> rfl

theorem exec_subForm : exec (subForm x) s = aluAcc (sub8 s.a (x.value s) false) x.cycles (x.afterRead s) := by
  cases x <;> rfl

theorem exec_sbcForm : exec (sbcForm x) s = aluAcc (sub8 s.a (x.value s) s.flagC) x.cycles (x.afterRead s) := by
  cases x <;> rfl

theorem exec_andForm : exec (andForm x) s = aluAcc (and8 s.a (x.value s)) x.cycles (x.afterRead s) := by
  cases x <;> rfl

theorem exec_xorForm : exec (xorForm x) s = aluAcc (xor8 s.a (x.value s)) x.cycles (x.afterRead s) := by
  cases x <;> rfl

theorem exec_orForm : exec (orForm x) s = aluAcc (or8 s.a (x.value s)) x.cycles (x.afterRead s) := by
  cases x <;> rfl

theorem exec_cpForm : exec (cpForm x) s = aluFlags (sub8 s.a (x.value s) false) x.cycles (x.afterRead s) := by
  cases x <;> rfl

/-- DAA (R183): F.N goes back in as it was. -/
theorem exec_daa : exec .daa s =
    aluAcc ⟨(daa s.a s.flagN s.flagH s.flagC).res, (daa s.a s.flagN s.flagH s.flagC).z, s.flagN, false,
      (daa s.a s.flagN s.flagH s.flagC).c⟩ 1 s := rfl

/-- CPL (R184): F.Z and F.C go back in as they were. -/
theorem exec_cpl : exec .cpl s = aluAcc ⟨~~~s.a, s.flagZ, true, true, s.flagC⟩ 1 s := rfl

/-- SCF (R185): F.Z goes back in as it was. -/
theorem exec_scf : exec .scf s = aluFlags ⟨s.a, s.flagZ, false, false, true⟩ 1 s := rfl

/-- CCF (R186): F.Z goes back in as it was. -/
theorem exec_ccf : exec .ccf s = aluFlags ⟨s.a, s.flagZ, false, false, !s.flagC⟩ 1 s := rfl

end

/-- INC and DEC of a place (R174 to R177): the step function at the value found there, F.C as it was. -/
theorem exec_stepForm {onReg : R8 → Instr} {onHL : Instr} {f : Byte → Step8} {s : State}
    (hreg : ∀ r, exec (onReg r) s = stepR8 f r s) (hhl : exec onHL s = stepAtHL f s) (p : Place) :
    ∃ t, exec (Place.form onReg onHL p) s = .next t ∧ p.Updated (f (p.value s)).res s t ∧
      t.f = packFlags (f (p.value s)).z (f (p.value s)).n (f (p.value s)).h s.flagC ∧
      SameControl s t ∧ SameConfig s t ∧ Retired (p.cycles 1 3) s t := by
  cases p with
  | reg r => exact hreg r ▸ stepR8_spec f r s
  | atHL => exact hhl ▸ stepAtHL_spec f s

/-! ### The primitives in numbers (R130 to R132, R138) -/

/-- The truncated sum is 0 (R130). -/
theorem add8_z (a b : Byte) (cin : Bool) :
    (add8 a b cin).z = decide ((a.toNat + b.toNat + cin.toNat) % 256 = 0) := by
  simp [add8, ← BitVec.toNat_inj]

/-- The difference modulo 256, the borrow-in included (R131). -/
theorem sub8_res_toNat (a b : Byte) (cin : Bool) :
    ((sub8 a b cin).res.toNat : Int) = ((a.toNat : Int) - b.toNat - cin.toNat) % 256 := by
  have hcin := cin.toNat_lt
  simp only [sub8, BitVec.toNat_sub, BitVec.toNat_ofNat]
  omega

/-- Without a borrow-in the difference is 0 for equal bytes alone. -/
theorem sub8_z (a b : Byte) : (sub8 a b false).z = decide (a = b) := by
  have : a - b = 0#8 ↔ a = b := by bv_omega
  simp [sub8, this]

theorem inc8_res (a : Byte) : (inc8 a).res = BitVec.ofNat 8 (a.toNat + 1) := by
  simp [inc8, BitVec.ofNat_add]

theorem inc8_z (a : Byte) : (inc8 a).z = decide (a.toNat = 0xFF) := by
  have : a + 1#8 = 0#8 ↔ a.toNat = 0xFF := by bv_omega
  simp [inc8, this]

theorem dec8_res (a : Byte) : (dec8 a).res = BitVec.ofNat 8 (a.toNat + 255) := by
  change a - 1 = _
  bv_omega

theorem dec8_z (a : Byte) : (dec8 a).z = decide (a.toNat = 1) := by
  have : a - 1#8 = 0#8 ↔ a.toNat = 1 := by bv_omega
  simp [dec8, this]

/-- Z is that of the adjusted byte, whichever branch is taken (R138). -/
theorem daa_z (a : Byte) (n h c : Bool) : (daa a n h c).z = decide ((daa a n h c).res = 0) := by
  cases n <;> rfl

/-- After an addition both corrections are added (R138, D14). -/
theorem daa_add_res (a : Byte) (h c : Bool) :
    (daa a false h c).res = BitVec.ofNat 8 (a.toNat + (if h = true ∨ a.toNat % 16 > 0x09 then 0x06 else 0) +
      (if c = true ∨ a.toNat > 0x99 then 0x60 else 0)) := by
  simp [daa, BitVec.ofNat_add, apply_ite (BitVec.ofNat 8)]

/-- After an addition F.C can only be set. -/
theorem daa_add_c (a : Byte) (h c : Bool) : (daa a false h c).c = decide (c = true ∨ a.toNat > 0x99) := by
  simp [daa]

/-- After a subtraction the corrections of F.H and F.C are subtracted (R138, D14). -/
theorem daa_sub_res_toNat (a : Byte) (h c : Bool) :
    ((daa a true h c).res.toNat : Int) = ((a.toNat : Int) -
      ((if h = true then 0x06 else 0) + (if c = true then 0x60 else 0))) % 256 := by
  simp only [daa, if_true, BitVec.toNat_sub, apply_ite BitVec.toNat, BitVec.ofNat_eq_ofNat, BitVec.toNat_ofNat]
  split_ifs <;> omega

/-- Each flag of a packed byte reads back, and the low nibble is 0 (R25, R26). -/
theorem flags_of_packFlags {t : State} {z n h c : Bool} (hf : t.f = packFlags z n h c) :
    t.flagZ = z ∧ t.flagN = n ∧ t.flagH = h ∧ t.flagC = c ∧ t.flagNibbleZero := by
  simp only [State.flagZ, State.flagN, State.flagH, State.flagC, State.flagNibbleZero, hf]
  exact ⟨packFlags_z z n h c, packFlags_n z n h c, packFlags_h z n h c, packFlags_c z n h c, packFlags_low z n h c⟩

/-- SUB and SBC in numbers, for either borrow-in: the difference in A, and Z read off it (R131, D6). -/
theorem aluAcc_sub8 (s : State) (x : Src) (cin : Bool) :
    ∃ t, aluAcc (sub8 s.a (x.value s) cin) x.cycles (x.afterRead s) = .next t ∧
      (t.a.toNat : Int) = ((s.a.toNat : Int) - (x.value s).toNat - cin.toNat) % 256 ∧
      t.f = packFlags (decide (t.a = 0)) true (decide (s.a.toNat % 16 < (x.value s).toNat % 16 + cin.toNat))
        (decide (s.a.toNat < (x.value s).toNat + cin.toNat)) ∧
      Frame [.a] (x.accesses s) x.cycles s t := by
  obtain ⟨t, hx, ha, hf, hframe⟩ := aluAcc_operand (sub8 s.a (x.value s) cin) x s
  exact ⟨t, hx, ha ▸ sub8_res_toNat _ _ _, ha ▸ hf, hframe⟩

/-! ### The statements -/

/-- Settles O24: ADD is ADC with a carry-in of 0. -/
theorem addAndAdcGiveSumAndFlags : Obligations.AddAndAdcGiveSumAndFlags := by
  intro s x
  rw [exec_addForm, exec_adcForm]
  have hadd (cin : Bool) := aluAcc_operand (add8 s.a (x.value s) cin) x s
  simp only [add8_z] at hadd
  exact ⟨hadd false, hadd s.flagC⟩

/-- Settles O25: SUB is SBC with a borrow-in of 0. -/
theorem subGivesDifferenceAndBorrows : Obligations.SubGivesDifferenceAndBorrows := by
  intro s x
  rw [exec_subForm]
  obtain ⟨t, hx, ha, hrest⟩ := aluAcc_sub8 s x false
  exact ⟨t, hx, by simpa using ha, hrest⟩

/-- Settles O26: the borrow-in is the old F.C. -/
theorem sbcSubtractsTheBorrowToo : Obligations.SbcSubtractsTheBorrowToo := by
  intro s x
  rw [exec_sbcForm]
  exact aluAcc_sub8 s x s.flagC

/-- Settles O27: the flags are SUB's, and the difference is 0 iff A equals the operand. -/
theorem cpWritesFlagsOnly : Obligations.CpWritesFlagsOnly := by
  intro s x
  rw [exec_cpForm]
  obtain ⟨t, hx, hf, hframe⟩ := aluFlags_operand (sub8 s.a (x.value s) false) x s
  rw [sub8_z] at hf
  exact ⟨t, hx, hf, hframe⟩

/-- Settles O28: `and8`, `xor8` and `or8` are R136's as worded. -/
theorem logicalInstructionsGiveResultAndFlags : Obligations.LogicalInstructionsGiveResultAndFlags := by
  intro s x
  rw [exec_andForm, exec_xorForm, exec_orForm]
  exact ⟨aluAcc_operand (and8 s.a (x.value s)) x s, aluAcc_operand (xor8 s.a (x.value s)) x s,
    aluAcc_operand (or8 s.a (x.value s)) x s⟩

/-- Settles O29: `inc8` and `dec8` in numbers, at either place. -/
theorem incAndDecKeepCarry : Obligations.IncAndDecKeepCarry := by
  intro s p
  have hinc := exec_stepForm (f := inc8) (s := s) (onReg := .incR) (onHL := .incAtHL) (fun _ => rfl) rfl p
  have hdec := exec_stepForm (f := dec8) (s := s) (onReg := .decR) (onHL := .decAtHL) (fun _ => rfl) rfl p
  rw [inc8_res, inc8_z] at hinc
  rw [dec8_res, dec8_z] at hdec
  exact ⟨hinc, hdec⟩

/-- Settles O30: the two branches of `daa` by F.N, and the flags read back from the packed byte. -/
theorem daaAdjustsByTheRule : Obligations.DaaAdjustsByTheRule := by
  intro s
  rw [exec_daa]
  obtain ⟨t, hx, ha, hf, hframe⟩ := aluAcc_spec _ 1 s
  obtain ⟨hz, hn, hh, hc, hnib⟩ := flags_of_packFlags hf
  refine ⟨t, hx, fun hadd => ?_, fun hsub => ?_, ?_, hn, hh, hnib, hframe⟩
  · rw [ha, hc, hadd]
    exact ⟨daa_add_res s.a s.flagH s.flagC, daa_add_c s.a s.flagH s.flagC⟩
  · rw [ha, hc, hsub]
    exact ⟨daa_sub_res_toNat s.a s.flagH s.flagC, rfl⟩
  · rw [hz, ha]
    exact daa_z _ _ _ _

/-- Settles O31: the kept flags go back in as they were. -/
theorem cplScfAndCcf : Obligations.CplScfAndCcf := by
  intro s
  rw [exec_cpl, exec_scf, exec_ccf]
  refine ⟨?_, aluFlags_spec _ 1 s, aluFlags_spec _ 1 s⟩
  obtain ⟨t, hx, ha, hf, hframe⟩ := aluAcc_spec ⟨~~~s.a, s.flagZ, true, true, s.flagC⟩ 1 s
  refine ⟨t, hx, ?_, hf, hframe⟩
  rw [ha]
  exact BitVec.toNat_not

end Sys2Proof.Machine

/-! ## 16-bit arithmetic (42_alu16.md, with R307)

INC rr and DEC rr end in a write of the pair alone, ADD HL,rr and LD HL,SP+e8 in a write of HL and of the flags,
ADD SP,e8 in a write of SP and of the flags. One lemma for each of the three endings gives its next state; Laws/Ops has
`inc16`, `dec16` and the signed displacement in numbers. -/

namespace Sys2Proof.Machine

/-! ### The three endings -/

@[simp] theorem State.getR16_report (s : State) (l : StepReport) (rr : R16) : (s.report l).getR16 rr = s.getR16 rr := by
  cases rr <;> rfl

/-- A 16-bit register written, and nothing else. -/
theorem done_setR16_spec (rr : R16) (v : Word) (m : Nat) (s : State) : ∃ t, done m (s.setR16 rr v) = .next t ∧
    t.getR16 rr = v ∧ (∀ q, q ≠ rr → t.getR16 q = s.getR16 q) ∧ t.a = s.a ∧ t.f = s.f ∧ t.pc = s.pc ∧ t.ime = s.ime ∧
    SameMemoryExcept [] s t ∧ SameConfig s t ∧ Accessed [] s t ∧ Retired m s t := by
  refine ⟨_, rfl, by simp, fun q hq => ?_, by simp, by simp, by simp, by simp, fun _ _ => by simp, ⟨by simp, by simp⟩,
    by simp [Accessed], by simp [Retired]⟩
  rw [State.getR16_report, s.getR16_setR16_other v hq]

section
variable (v : Word) (z n h c : Option Bool) (m : Nat) (s : State)

/-- HL written, then the flags; `none` leaves a flag as it was (R120). -/
theorem done_setHL_writeFlags_spec : ∃ t, done m ((s.setHL v).writeFlags z n h c) = .next t ∧ t.hl = v ∧
    t.f = packFlags (z.getD s.flagZ) (n.getD s.flagN) (h.getD s.flagH) (c.getD s.flagC) ∧ Frame [.h, .l] [] m s t :=
  ⟨_, rfl, s.setHL_hl v, packFlags_masked _ _ _ _, sameR8_but_hl rfl rfl rfl rfl rfl, fun _ _ => rfl, ⟨rfl, rfl, rfl⟩,
    ⟨rfl, rfl⟩, (List.append_nil _).symm, rfl⟩

/-- SP written, then the flags. -/
theorem done_setSp_writeFlags_spec : ∃ t, done m ((s.setSp v).writeFlags z n h c) = .next t ∧ t.sp = v ∧
    t.f = packFlags (z.getD s.flagZ) (n.getD s.flagN) (h.getD s.flagH) (c.getD s.flagC) ∧
    SameR8Except [] s t ∧ SameMemoryExcept [] s t ∧ t.pc = s.pc ∧ t.ime = s.ime ∧ SameConfig s t ∧ Accessed [] s t ∧
    Retired m s t :=
  ⟨_, rfl, rfl, packFlags_masked _ _ _ _, fun _ _ => by simp, fun _ _ => rfl, rfl, rfl, ⟨rfl, rfl⟩,
    (List.append_nil _).symm, rfl⟩

end

/-- The result of `addSp` in numbers (R137): the displacement counts signed. -/
theorem addSp_res_toNat (sp : Word) (e : Byte) : ((addSp sp e).res.toNat : Int) = ((sp.toNat : Int) + e.toInt) % 65536 :=
  add_sext16_toNat sp e

/-! ### The statements -/

/-- Settles O32: the dash for F.Z puts the old F.Z back, and `add16` is R133's as worded. -/
theorem addHlKeepsZero : Obligations.AddHlKeepsZero := by
  intro s rr
  exact done_setHL_writeFlags_spec (add16 s.hl (s.getR16 rr)).res none (some _) (some _) (some _) 2 s

/-- Settles O33: the pair written is the old one through `inc16` or `dec16`. -/
theorem incAndDecOfPairsWriteNoFlag : Obligations.IncAndDecOfPairsWriteNoFlag := by
  intro s rr
  constructor
  · obtain ⟨t, hx, hv, hframe⟩ := done_setR16_spec rr (inc16 (s.getR16 rr)) 2 s
    exact ⟨t, hx, hv ▸ inc16_toNat _, hframe⟩
  · obtain ⟨t, hx, hv, hframe⟩ := done_setR16_spec rr (dec16 (s.getR16 rr)) 2 s
    exact ⟨t, hx, hv ▸ dec16_toNat _, hframe⟩

/-- Settles O34: both instructions write the result and the flags of `addSp`, one to SP and one to HL (D16). -/
theorem spDisplacementAddsSignedWithByteFlags : Obligations.SpDisplacementAddsSignedWithByteFlags := by
  intro s e
  constructor
  · obtain ⟨t, hx, hv, hrest⟩ :=
      done_setSp_writeFlags_spec (addSp s.sp e).res (some false) (some false) (some _) (some _) 4 s
    exact ⟨t, hx, hv ▸ addSp_res_toNat s.sp e, hrest⟩
  · obtain ⟨t, hx, hv, hrest⟩ :=
      done_setHL_writeFlags_spec (addSp s.sp e).res (some false) (some false) (some _) (some _) 3 s
    exact ⟨t, hx, hv ▸ addSp_res_toNat s.sp e, hrest⟩

end Sys2Proof.Machine

/-! ## Rotates, shifts and bit operations (43_rotate_shift_bit.md)

Each of the eight operations of R135 but SWAP is `rl8` or `rr8` with its own bit moved in, so two lemmas about those say
where every bit goes; bits are kept as `getLsbD`, the form the statements use. An instruction is one of the shared
operations `rotateAcc`, `shiftR8`, `shiftAtHL`, `bitTest` and `modifyAtHL`, whose next states Laws/Meanings gives. -/

namespace Sys2Proof.Machine

/-! ### The primitives bit by bit (R135, R242, R244) -/

/-- A carry as a byte is its bit 0. -/
theorem getLsbD_bitByte (c : Bool) (k : Nat) : (bitByte c).getLsbD k = (decide (k = 0) && c) := by
  cases c <;> simp [bitByte, BitVec.getLsbD_one]

theorem getLsbD_bitMask (b : Fin 8) (k : Nat) : (bitMask b).getLsbD k = decide (k = b.val) :=
  (BitVec.getLsbD_twoPow b.val k).trans (by simp [eq_comm])

/-- One place to the left, the carry moved in at bit 0. -/
theorem getLsbD_rl8 (v : Byte) (cin : Bool) {k : Nat} (hk : k < 8) :
    (rl8 v cin).res.getLsbD k = if k = 0 then cin else v.getLsbD (k - 1) := by
  cases k with
  | zero => simp [-BitVec.getLsbD_eq_getElem, rl8, getLsbD_bitByte]
  | succ k => simp [-BitVec.getLsbD_eq_getElem, rl8, getLsbD_bitByte, hk]

/-- One place to the right, the carry moved in at bit 7. -/
theorem getLsbD_rr8 (v : Byte) (cin : Bool) {k : Nat} (hk : k < 8) :
    (rr8 v cin).res.getLsbD k = if k = 7 then cin else v.getLsbD (k + 1) := by
  by_cases h : k = 7
  · subst h
    simp [-BitVec.getLsbD_eq_getElem, rr8, getLsbD_bitByte]
  · have h7 : k < 7 := by omega
    simp [rr8, h, h7, Nat.add_comm 1 k]

theorem sla8_eq_rl8 (v : Byte) : sla8 v = rl8 v false := by simp [sla8, rl8, bitByte]

theorem srl8_eq_rr8 (v : Byte) : srl8 v = rr8 v false := by simp [srl8, rr8, bitByte]

/-- `0x80` picks out the bit that is kept, which is the one moved in. -/
theorem sra8_eq_rr8 (v : Byte) : sra8 v = rr8 v (v.getLsbD 7) := by
  have hkept : v &&& BitVec.twoPow 8 7 = bitByte (v.getLsbD 7) <<< 7 := by
    rw [BitVec.and_twoPow]
    cases v.getLsbD 7 <;> rfl
  rw [rr8, ← hkept]
  rfl

/-- The low nibble goes up and the high nibble down. -/
theorem getLsbD_swap8 (v : Byte) {k : Nat} (hk : k < 8) : (swap8 v).res.getLsbD k = v.getLsbD ((k + 4) % 8) := by
  by_cases h : k < 4
  · have hmod : (k + 4) % 8 = 4 + k := by omega
    simp [-BitVec.getLsbD_eq_getElem, swap8, h, hmod]
  · have hmod : (k + 4) % 8 = k - 4 := by omega
    have hmask : (15#8).getLsbD (k - 4) = true :=
      (by decide : ∀ i < 4, (15#8).getLsbD i = true) _ (by omega)
    have hout : v.getLsbD (4 + k) = false := v.getLsbD_of_ge _ (by omega)
    simp [-BitVec.getLsbD_eq_getElem, swap8, hk, h, hmod, hmask, hout]

/-- R242: the mask complemented clears bit `b` alone. -/
theorem getLsbD_and_not_bitMask (v : Byte) (b : Fin 8) {k : Nat} (hk : k < 8) :
    (v &&& ~~~bitMask b).getLsbD k = if k = b.val then false else v.getLsbD k := by
  by_cases h : k = b.val <;> simp [-BitVec.getLsbD_eq_getElem, getLsbD_bitMask, hk, h]

/-- R244: the mask sets bit `b` alone. -/
theorem getLsbD_or_bitMask (v : Byte) (b : Fin 8) (k : Nat) :
    (v ||| bitMask b).getLsbD k = if k = b.val then true else v.getLsbD k := by
  by_cases h : k = b.val <;> simp [-BitVec.getLsbD_eq_getElem, getLsbD_bitMask, h]

/-! ### The eight operations -/

/-- The primitive of each operation, by the old F.C and the old value. -/
def ShiftOp.apply (cin : Bool) (v : Byte) : ShiftOp → Shift8
  | .rlc => rlc8 v
  | .rrc => rrc8 v
  | .rl => rl8 v cin
  | .rr => rr8 v cin
  | .sla => sla8 v
  | .sra => sra8 v
  | .swap => swap8 v
  | .srl => srl8 v

theorem ShiftOp.apply_c (op : ShiftOp) (cin : Bool) (v : Byte) : (op.apply cin v).c = op.bitOut v := by
  cases op <;> rfl

theorem ShiftOp.getLsbD_apply (op : ShiftOp) (cin : Bool) (v : Byte) {k : Nat} (hk : k < 8) :
    (op.apply cin v).res.getLsbD k = op.newBit v cin k := by
  cases op with
  | rlc => exact getLsbD_rl8 v (v.getLsbD 7) hk
  | rl => exact getLsbD_rl8 v cin hk
  | sla => rw [ShiftOp.apply, sla8_eq_rl8]; exact getLsbD_rl8 v false hk
  | rrc => exact getLsbD_rr8 v (v.getLsbD 0) hk
  | rr => exact getLsbD_rr8 v cin hk
  | sra => rw [ShiftOp.apply, sra8_eq_rr8]; exact getLsbD_rr8 v (v.getLsbD 7) hk
  | srl => rw [ShiftOp.apply, srl8_eq_rr8]; exact getLsbD_rr8 v false hk
  | swap => exact getLsbD_swap8 v hk

/-! ### Which operation each instruction is -/

theorem exec_shiftForm_reg (op : ShiftOp) (r : R8) (s : State) :
    exec (op.form (.reg r)) s = shiftR8 (op.apply s.flagC) r s := by
  cases op <;> rfl

theorem exec_shiftForm_atHL (op : ShiftOp) (s : State) : exec (op.form .atHL) s = shiftAtHL (op.apply s.flagC) s := by
  cases op <;> rfl

/-- An accumulator rotate (R220 to R223) is the secondary table's, on A and with its own F.Z. -/
theorem exec_accRotate {op : ShiftOp} {i : Instr} (s : State) (h : (op, i) ∈ accRotates) :
    exec i s = rotateAcc (op.apply s.flagC s.a) s := by
  simp only [accRotates, List.mem_cons, Prod.mk.injEq, List.not_mem_nil, or_false] at h
  obtain ⟨rfl, rfl⟩ | ⟨rfl, rfl⟩ | ⟨rfl, rfl⟩ | ⟨rfl, rfl⟩ := h <;> rfl

/-- A rotate or shift of a place (R224 to R239): the primitive at the value found there. -/
theorem exec_shiftForm (op : ShiftOp) (p : Place) (s : State) :
    ∃ t, exec (op.form p) s = .next t ∧ p.Updated (op.apply s.flagC (p.value s)).res s t ∧
      t.f = packFlags (decide ((op.apply s.flagC (p.value s)).res = 0)) false false
        (op.apply s.flagC (p.value s)).c ∧
      SameControl s t ∧ SameConfig s t ∧ Retired (p.cycles 2 4) s t := by
  cases p with
  | reg r => exact exec_shiftForm_reg op r s ▸ shiftR8_spec (op.apply s.flagC) r s
  | atHL => exact exec_shiftForm_atHL op s ▸ shiftAtHL_spec (op.apply s.flagC) s

/-- A register written, and nothing else. -/
theorem done_setR8_spec (r : R8) (v : Byte) (m : Nat) (s : State) : ∃ t, done m (s.setR8 r v) = .next t ∧
    (Place.reg r).Updated v s t ∧ t.f = s.f ∧ SameControl s t ∧ SameConfig s t ∧ Retired m s t :=
  ⟨_, rfl, updated_reg s r v (·.report _) (by simp) (by simp) (by simp), by simp, ⟨by simp, by simp, by simp⟩,
    ⟨by simp, by simp⟩, by simp [Retired]⟩

/-- RES and SET of a place (R242 to R245): `f` of the value found there. -/
theorem exec_modifyForm {onReg : R8 → Instr} {onHL : Instr} {f : Byte → Byte} {s : State}
    (hreg : ∀ r, exec (onReg r) s = done 2 (s.setR8 r (f (s.getR8 r)))) (hhl : exec onHL s = modifyAtHL f s)
    (p : Place) : ∃ t, exec (Place.form onReg onHL p) s = .next t ∧ p.Updated (f (p.value s)) s t ∧ t.f = s.f ∧
      SameControl s t ∧ SameConfig s t ∧ Retired (p.cycles 2 4) s t := by
  cases p with
  | reg r => exact hreg r ▸ done_setR8_spec r _ 2 s
  | atHL => exact hhl ▸ modifyAtHL_spec f s

/-! ### The statements -/

/-- Settles O35: F.Z is `zacc`'s, by the parameter (D5). -/
theorem accumulatorRotatesBitByBit : Obligations.AccumulatorRotatesBitByBit := by
  intro s op i hi
  obtain ⟨t, hx, ha, hf, hframe⟩ := rotateAcc_spec (op.apply s.flagC s.a) s
  have hflags : t.f = packFlags (zacc s t.a) false false (op.bitOut s.a) := by rw [hf, op.apply_c, ha]
  exact ⟨t, exec_accRotate s hi ▸ hx, fun k hk => ha ▸ op.getLsbD_apply s.flagC s.a hk, hflags, hframe⟩

/-- Settles O36: the result and the bit shifted out are those of the operation's primitive. -/
theorem secondaryShiftsBitByBit : Obligations.SecondaryShiftsBitByBit := by
  intro s op p
  obtain ⟨t, hx, hp, hf, hframe⟩ := exec_shiftForm op p s
  rw [op.apply_c] at hf
  exact ⟨t, _, hx, fun k hk => op.getLsbD_apply s.flagC (p.value s) hk, hp, hf, hframe⟩

/-- Settles O37: the (HL) form is the test of the byte read, on the state after that read. -/
theorem bitTestWritesOnlyFlags : Obligations.BitTestWritesOnlyFlags := by
  intro s b p
  cases p with
  | reg r => exact bitTest_spec (s.getR8 r) b 2 s
  | atHL =>
    obtain ⟨t, hx, hf, hframe⟩ := bitTest_spec (s.busValue s.hl) b 3 (s.memRead s.hl).2
    exact ⟨t, hx, hf, Frame.of_afterRead .atHL hframe⟩

/-- Settles O38: the mask of bit `b`, complemented for RES. -/
theorem resAndSetChangeOneBit : Obligations.ResAndSetChangeOneBit := by
  intro s b p
  constructor
  · obtain ⟨t, hx, hres⟩ :=
      exec_modifyForm (f := (· &&& ~~~bitMask b)) (onReg := .resBR b) (onHL := .resBAtHL b) (fun _ => rfl) rfl p
    exact ⟨t, _, hx, fun _ hk => getLsbD_and_not_bitMask _ b hk, hres⟩
  · obtain ⟨t, hx, hset⟩ :=
      exec_modifyForm (f := (· ||| bitMask b)) (onReg := .setBR b) (onHL := .setBAtHL b) (fun _ => rfl) rfl p
    exact ⟨t, _, hx, fun k _ => getLsbD_or_bitMask _ b k, hset⟩

end Sys2Proof.Machine

/-! ## 8-bit loads (44_load8.md)

Each load ends in a register write and each store in one bus write; (HL+) and (HL-) then write HL as well. One lemma for
each ending gives its next state; `loadA` and `storeA` have theirs in Laws/Meanings. -/

namespace Sys2Proof.Machine

/-! ### The endings -/

/-- Only A, H and L may differ. -/
theorem sameR8_but_a_hl {s t : State} (hb : t.b = s.b) (hc : t.c = s.c) (hd : t.d = s.d) (he : t.e = s.e) :
    SameR8Except [.a, .h, .l] s t := by
  intro r hr
  cases r with
  | a | h | l => simp at hr
  | b => exact hb
  | c => exact hc
  | d => exact hd
  | e => exact he

section
variable (addr : Addr) (v : Byte) (w : Word) (m : Nat) (s : State)

/-- One byte stored, and nothing else (R63). -/
theorem done_memWrite_spec : ∃ t, done m (s.memWrite addr v) = .next t ∧ Stored addr v s t ∧
    SameMemoryExcept [addr] s t ∧ SameR8Except [] s t ∧ t.f = s.f ∧ SameControl s t ∧ SameConfig s t ∧
    Accessed [⟨.write, addr, v⟩] s t ∧ Retired m s t := by
  obtain ⟨hstored, hmem⟩ := stored_then addr v s (·.report (.retired m (s.cfg.tPerM * m))) (by simp)
  exact ⟨_, rfl, hstored, hmem, fun _ _ => by simp, rfl, ⟨rfl, rfl, rfl⟩, ⟨rfl, rfl⟩, rfl, rfl⟩

/-- One byte stored, then HL written (R271, R272). -/
theorem done_memWrite_setHL_spec : ∃ t, done m ((s.memWrite addr v).setHL w) = .next t ∧ Stored addr v s t ∧
    SameMemoryExcept [addr] s t ∧ t.hl = w ∧ SameR8Except [.h, .l] s t ∧ t.f = s.f ∧ SameControl s t ∧
    SameConfig s t ∧ Accessed [⟨.write, addr, v⟩] s t ∧ Retired m s t := by
  obtain ⟨hstored, hmem⟩ := stored_then addr v s (fun u => (u.setHL w).report (.retired m (s.cfg.tPerM * m))) (by simp)
  exact ⟨_, rfl, hstored, hmem, (s.memWrite addr v).setHL_hl w, sameR8_but_hl rfl rfl rfl rfl rfl, rfl,
    ⟨rfl, rfl, rfl⟩, ⟨rfl, rfl⟩, rfl, rfl⟩

/-- One byte loaded into A, then HL written (R269, R270). -/
theorem done_loadA_setHL_spec : ∃ t, done m (((s.memRead addr).2.setA (s.busValue addr)).setHL w) = .next t ∧
    t.a = s.busValue addr ∧ t.hl = w ∧ SameR8Except [.a, .h, .l] s t ∧ t.f = s.f ∧ SameMemoryExcept [] s t ∧
    SameControl s t ∧ SameConfig s t ∧ Accessed [⟨.read, addr, s.busValue addr⟩] s t ∧ Retired m s t :=
  ⟨_, rfl, rfl, ((s.memRead addr).2.setA (s.busValue addr)).setHL_hl w, sameR8_but_a_hl rfl rfl rfl rfl, rfl,
    fun _ _ => rfl, ⟨rfl, rfl, rfl⟩, ⟨rfl, rfl⟩, rfl, rfl⟩

end

theorem Src.afterRead_f (x : Src) (s : State) : (x.afterRead s).f = s.f := by cases x <;> rfl

/-- A register written with an operand's value, on the state after the operand's read (R260, R261, R263). -/
theorem done_setR8_operand (dst : R8) (x : Src) (s : State) :
    ∃ t, done x.cycles ((x.afterRead s).setR8 dst (x.value s)) = .next t ∧ t.getR8 dst = x.value s ∧
      SameR8Except [dst] s t ∧ t.f = s.f ∧ SameMemoryExcept [] s t ∧ SameControl s t ∧ SameConfig s t ∧
      Accessed (x.accesses s) s t ∧ Retired x.cycles s t := by
  obtain ⟨t, hx, ⟨hval, hreg, hmem, hacc⟩, hf, hctl, hcfg, hret⟩ :=
    done_setR8_spec dst (x.value s) x.cycles (x.afterRead s)
  obtain ⟨hreg, hrest⟩ := Frame.of_afterRead x ⟨hreg, hmem, hctl, hcfg, hacc, hret⟩
  exact ⟨t, hx, hval, hreg, hf.trans (x.afterRead_f s), hrest⟩

/-! ### Which operation each instruction is -/

/-- R265, R266, R273, R277, R279: `loadA` at the listed address, page 0xFF00 as a sum (R97). -/
theorem exec_accLoad {s : State} {a16 addr : Addr} {a8 : Byte} {i : Instr} {m : Nat}
    (h : (i, addr, m) ∈ accLoads s a16 a8) : exec i s = loadA addr m s := by
  simp only [accLoads, ← highPage_eq, List.mem_cons, Prod.mk.injEq, List.not_mem_nil, or_false] at h
  obtain ⟨rfl, rfl, rfl⟩ | ⟨rfl, rfl, rfl⟩ | ⟨rfl, rfl, rfl⟩ | ⟨rfl, rfl, rfl⟩ | ⟨rfl, rfl, rfl⟩ := h <;> rfl

/-- R267, R268, R274, R276, R278: `storeA` at the listed address. -/
theorem exec_accStore {s : State} {a16 addr : Addr} {a8 : Byte} {i : Instr} {m : Nat}
    (h : (i, addr, m) ∈ accStores s a16 a8) : exec i s = storeA addr m s := by
  simp only [accStores, ← highPage_eq, List.mem_cons, Prod.mk.injEq, List.not_mem_nil, or_false] at h
  obtain ⟨rfl, rfl, rfl⟩ | ⟨rfl, rfl, rfl⟩ | ⟨rfl, rfl, rfl⟩ | ⟨rfl, rfl, rfl⟩ | ⟨rfl, rfl, rfl⟩ := h <;> rfl

/-! ### The statements -/

/-- Settles O39: the three forms are the three kinds of operand. -/
theorem registerLoadsMoveOneByte : Obligations.RegisterLoadsMoveOneByte := by
  intro s dst
  exact ⟨fun src => done_setR8_operand dst (.reg src) s, done_setR8_operand dst .atHL s,
    fun d => done_setR8_operand dst (.imm d) s⟩

/-- Settles O40: both forms are the one write at HL. -/
theorem storesAtHlWriteOneByte : Obligations.StoresAtHlWriteOneByte := by
  intro s
  exact ⟨fun r => done_memWrite_spec s.hl (s.getR8 r) 2 s, fun d => done_memWrite_spec s.hl d 3 s⟩

/-- Settles O41: every listed load is `loadA`. -/
theorem accumulatorLoadsReadOneByte : Obligations.AccumulatorLoadsReadOneByte := by
  intro s a16 a8 i addr m hi
  rw [exec_accLoad hi]
  exact loadA_spec addr m s

/-- Settles O42: every listed store is `storeA`. -/
theorem accumulatorStoresWriteOneByte : Obligations.AccumulatorStoresWriteOneByte := by
  intro s a16 a8 i addr m hi
  rw [exec_accStore hi]
  exact storeA_spec addr m s

/-- Settles O43: HL becomes the old one through `inc16` or `dec16`. -/
theorem loadsThroughHlStepHl : Obligations.LoadsThroughHlStepHl := by
  intro s
  constructor
  · obtain ⟨t, hx, ha, hhl, hframe⟩ := done_loadA_setHL_spec s.hl (inc16 s.hl) 2 s
    exact ⟨t, hx, ha, hhl ▸ inc16_toNat s.hl, hframe⟩
  · obtain ⟨t, hx, ha, hhl, hframe⟩ := done_loadA_setHL_spec s.hl (dec16 s.hl) 2 s
    exact ⟨t, hx, ha, hhl ▸ dec16_toNat s.hl, hframe⟩

/-- Settles O44: A at the old HL, then HL through `inc16` or `dec16`. -/
theorem storesThroughHlStepHl : Obligations.StoresThroughHlStepHl := by
  intro s
  constructor
  · obtain ⟨t, hx, hstored, hmem, hhl, hframe⟩ := done_memWrite_setHL_spec s.hl s.a (inc16 s.hl) 2 s
    exact ⟨t, hx, hstored, hmem, hhl ▸ inc16_toNat s.hl, hframe⟩
  · obtain ⟨t, hx, hstored, hmem, hhl, hframe⟩ := done_memWrite_setHL_spec s.hl s.a (dec16 s.hl) 2 s
    exact ⟨t, hx, hstored, hmem, hhl ▸ dec16_toNat s.hl, hframe⟩

end Sys2Proof.Machine

/-! ## 16-bit loads and the stack (45_load16_stack.md)

LD rr,d16 is `done_setR16_spec`. LD SP,HL, LD (a16),SP and PUSH each end in one shared operation and a `done`, and a
lemma for each gives its next state, the two bytes as `lowerByte` and `upperByte`; `split_eq` puts those in the order the
statements use. A POP differs with the pair in the registers it reaches alone. A pop after a push turns on FlatBus
answering the bytes stored. -/

namespace Sys2Proof.Machine

/-! ### The endings -/

/-- SP written, and nothing else. -/
theorem done_setSp_spec (v : Word) (m : Nat) (s : State) : ∃ t, done m (s.setSp v) = .next t ∧ t.sp = v ∧
    SameR8Except [] s t ∧ t.f = s.f ∧ t.pc = s.pc ∧ t.ime = s.ime ∧ SameMemoryExcept [] s t ∧ SameConfig s t ∧
    Accessed [] s t ∧ Retired m s t :=
  ⟨_, rfl, rfl, fun _ _ => by simp, rfl, rfl, rfl, fun _ _ => rfl, ⟨rfl, rfl⟩, (List.append_nil _).symm, rfl⟩

/-- A word stored, lower address first, and nothing else (R67). -/
theorem done_memWrite16_spec (a : Addr) (v : Word) (m : Nat) (s : State) : ∃ t, done m (s.memWrite16 a v) = .next t ∧
    Stored a (lowerByte s.cfg.byteOrder v) s t ∧ Stored (a + 1) (upperByte s.cfg.byteOrder v) s t ∧
    SameMemoryExcept [a, a + 1] s t ∧ SameR8Except [] s t ∧ t.f = s.f ∧ SameControl s t ∧ SameConfig s t ∧
    Accessed [⟨.write, a, lowerByte s.cfg.byteOrder v⟩, ⟨.write, a + 1, upperByte s.cfg.byteOrder v⟩] s t ∧
    Retired m s t := by
  refine ⟨_, rfl, fun hb hw => (s.memWrite16_read a v hb hw).1, fun hb hw => (s.memWrite16_read a v hb hw).2,
    fun b hb => ?_, fun _ _ => by simp, rfl, ⟨rfl, rfl, rfl⟩, ⟨rfl, rfl⟩, by simp [Accessed], rfl⟩
  obtain ⟨h0, h1⟩ : b ≠ a ∧ b ≠ a + 1 := by simpa using hb
  exact s.memWrite16_read_other v h0 h1

/-- A word pushed, and nothing else (R300). -/
theorem done_push16_spec (v : Word) (m : Nat) (s : State) : ∃ t, done m (s.push16 v) = .next t ∧ t.sp = s.sp - 2 ∧
    Stored (s.sp - 1) (upperByte s.cfg.byteOrder v) s t ∧ Stored (s.sp - 2) (lowerByte s.cfg.byteOrder v) s t ∧
    SameMemoryExcept [s.sp - 1, s.sp - 2] s t ∧ SameR8Except [] s t ∧ t.f = s.f ∧ t.pc = s.pc ∧ t.ime = s.ime ∧
    SameConfig s t ∧
    Accessed [⟨.write, s.sp - 1, upperByte s.cfg.byteOrder v⟩, ⟨.write, s.sp - 2, lowerByte s.cfg.byteOrder v⟩] s t ∧
    Retired m s t := by
  obtain ⟨hupper, hlower, hmem⟩ := pushed_then s v (·.report (.retired m (s.cfg.tPerM * m))) (by simp)
  exact ⟨_, rfl, by simp [sub_one_twice], hupper, hlower, hmem, fun _ _ => by simp, by simp, by simp, by simp,
    ⟨by simp, by simp⟩, by simp [Accessed, sub_one_twice], by simp [Retired]⟩

/-- The 8-bit registers a write of a stack pair reaches (R23); F, which AF reaches too, is no `R8`. -/
def halvesOf : R16S → List R8
  | .bc => [.b, .c]
  | .de => [.d, .e]
  | .hl => [.h, .l]
  | .af => [.a]

/-- Writing a stack pair leaves every other 8-bit register (R23). -/
theorem State.getR8_setR16S_other (s : State) {rr : R16S} {r : R8} (v : Word) (h : r ∉ halvesOf rr) :
    (s.setR16S rr v).getR8 r = s.getR8 r := by
  cases rr <;> cases r <;> simp [halvesOf, State.setR16S, State.getR8] at h ⊢

/-- A pop writes no 8-bit register but the pair's halves (R301, R305). -/
theorem sameR8_pop16 (s : State) (rr : R16S) (r : StepReport) :
    SameR8Except (halvesOf rr) s ((s.pop16.2.setR16S rr s.pop16.1).report r) := fun q hq =>
  calc ((s.pop16.2.setR16S rr s.pop16.1).report r).getR8 q = (s.pop16.2.setR16S rr s.pop16.1).getR8 q := by simp
    _ = s.pop16.2.getR8 q := State.getR8_setR16S_other _ _ hq
    _ = s.getR8 q := s.getR8_pop16 q

theorem exec_popRr (rr : R16S) (s : State) : exec (.popRr rr) s = done 3 (s.pop16.2.setR16S rr s.pop16.1) := rfl

/-! ### A pop after a push (R300, R301) -/

theorem State.busValue_flat {s : State} (hb : s.cfg.bus = .flat) (a : Addr) : s.busValue a = s.mem.read a.toNat := by
  simp [State.busValue, hb]

/-- On FlatBus the first read of a pop cannot change what the second answers. -/
theorem State.pop16_value_flat {s : State} (hb : s.cfg.bus = .flat) :
    s.pop16.1 = assemble s.cfg.byteOrder (s.mem.read s.sp.toNat) (s.mem.read (s.sp + 1).toNat) := by
  rw [State.pop16_value, State.busValue_flat hb, State.busValue_flat (by simpa using hb)]
  rfl

/-- The outcome reported before a pop plays no part in it (log entry 4). -/
@[simp] theorem State.pop16_report (s : State) (r : StepReport) :
    (s.report r).pop16 = (s.pop16.1, s.pop16.2.report r) := rfl

theorem State.pop16_push16_value {s : State} (hb : s.cfg.bus = .flat) (hw : s.memCanonical) (v : Word) :
    (s.push16 v).pop16.1 = v := by
  obtain ⟨hlower, hupper⟩ := s.push16_read v hb hw
  have hsp : s.sp - 1 - 1 + 1 = s.sp - 1 := BitVec.sub_add_cancel _ _
  rw [State.pop16_value_flat (by simpa using hb), State.push16_sp, hsp, hlower, hupper, State.push16_cfg, assemble_split]

theorem State.pop16_push16_sp (s : State) (v : Word) : (s.push16 v).pop16.2.sp = s.sp := by
  rw [State.pop16_sp, State.push16_sp, BitVec.sub_add_cancel, BitVec.sub_add_cancel]

/-- R26's mask keeps a byte whose low nibble is 0 already. -/
theorem mask_of_flagNibbleZero {s : State} (h : s.flagNibbleZero) : s.f &&& 0xF0 = s.f :=
  calc s.f &&& 0xF0 = s.f &&& 0xF0 ||| s.f &&& 0x0F := by rw [h]; exact BitVec.or_zero.symm
    _ = s.f &&& (0xF0 ||| 0x0F) := BitVec.and_or_distrib_left.symm
    _ = s.f := BitVec.and_allOnes

/-! ### The statements -/

/-- Settles O45: the one load writes a 16-bit register, the other SP. -/
theorem wordLoadsReplaceOneRegister : Obligations.WordLoadsReplaceOneRegister := by
  intro s
  exact ⟨fun rr d => done_setR16_spec rr d 3 s, done_setSp_spec s.hl 2 s⟩

/-- Settles O46: the 16-bit store at the address. -/
theorem storeOfSpWritesTwoBytes : Obligations.StoreOfSpWritesTwoBytes := by
  intro s a x0 x1 hx
  obtain ⟨rfl, rfl⟩ := Prod.mk.inj (hx.trans (split_eq _ _).symm)
  exact done_memWrite16_spec a s.sp 5 s

/-- Settles O47: the push of the pair's value, whichever the pair. -/
theorem pushWritesTwoBytesBelowSp : Obligations.PushWritesTwoBytesBelowSp := by
  intro s rr x0 x1 hx
  obtain ⟨rfl, rfl⟩ := Prod.mk.inj (hx.trans (split_eq _ _).symm)
  exact done_push16_spec (s.getR16S rr) 4 s

/-- Settles O48: the value is the one popped; which registers it goes to is a case of the pair. -/
theorem popReadsTwoBytesAtSp : Obligations.PopReadsTwoBytesAtSp := by
  rintro s rr _ _ rfl rfl
  rw [exec_popRr]
  have hreg := sameR8_pop16 s rr (.retired 3 (s.cfg.tPerM * 3))
  refine ⟨_, s.pop16.1, rfl, ?_, ?_, by simp [add_one_twice], by simp, by simp, fun _ _ => by simp,
    ⟨by simp, by simp⟩, by simp [Accessed, State.pop16_accesses], by simp [Retired]⟩
  · rw [State.pop16_value, assemble_toNat]
  · cases rr with
    | af => exact ⟨rfl, rfl, hreg⟩
    | bc | de | hl => exact ⟨by simp [State.setR16S], by simp [State.setR16S_f], hreg⟩

/-- Settles O49: the bytes pushed are the bytes read back, and the mask of POP AF takes nothing from F (R26). -/
theorem popAfterPushGivesTheValueBack : Obligations.PopAfterPushGivesTheValueBack := by
  rintro s hb ⟨hf, hw⟩
  refine ⟨fun v => ⟨State.pop16_push16_value hb hw v, s.pop16_push16_sp v⟩, fun t ht => ?_⟩
  obtain rfl := done_eq_next.1 ht
  rw [exec_popRr, State.pop16_report, State.pop16_push16_value hb hw]
  refine ⟨_, rfl, ?_, ?_, s.pop16_push16_sp s.af⟩
  · exact hiByte_joinBytes s.a s.f
  · calc loByte s.af &&& 0xF0 = s.f &&& 0xF0 := congrArg (· &&& 0xF0) (loByte_joinBytes s.a s.f)
      _ = s.f := mask_of_flagNibbleZero hf

end Sys2Proof.Machine

/-! ## Control transfer (46_control_transfer.md)

Every transfer ends in a write of PC, a push and a write of PC, or a pop into PC; one lemma for each ending gives its next
state. A path not taken writes the PC it finds, and a return but RETI the IME it finds, so each conditional form and each
return is one of the three endings too. -/

namespace Sys2Proof.Machine

/-! ### The endings -/

/-- PC written, and nothing else (R321, R323). -/
theorem done_jumpTo_spec (v : Addr) (m : Nat) (s : State) : ∃ t, done m (jumpTo v s) = .next t ∧ t.pc = v ∧
    t.sp = s.sp ∧ t.ime = s.ime ∧ SameR8Except [] s t ∧ t.f = s.f ∧ SameMemoryExcept [] s t ∧ SameConfig s t ∧
    Accessed [] s t ∧ Retired m s t :=
  ⟨_, rfl, rfl, rfl, rfl, fun _ _ => by simp, rfl, fun _ _ => rfl, ⟨rfl, rfl⟩, (List.append_nil _).symm, rfl⟩

/-- PC popped and IME written, and nothing else (R328, R330). -/
theorem done_returnFrom_spec (s : State) {b0 b1 : Byte} (h0 : b0 = s.busValue s.sp)
    (h1 : b1 = (s.memRead s.sp).2.busValue (s.sp + 1)) (ime : Bool) (m : Nat) :
    ∃ t, done m ((returnFrom s).setIme ime) = .next t ∧ t.pc.toNat = wordOf s.cfg.byteOrder b0 b1 ∧
      t.sp = s.sp + 2 ∧ t.ime = ime ∧ SameR8Except [] s t ∧ t.f = s.f ∧ SameMemoryExcept [] s t ∧ SameConfig s t ∧
      Accessed [⟨.read, s.sp, b0⟩, ⟨.read, s.sp + 1, b1⟩] s t ∧ Retired m s t := by
  obtain ⟨hpc, hsp, hacc⟩ := returnFrom_spec s h0 h1
  exact ⟨_, rfl, hpc, hsp, rfl, fun _ _ => by simp, returnFrom_f s, fun _ _ => by simp,
    ⟨returnFrom_cfg s, returnFrom_written s⟩, hacc, by simp [Retired]⟩

/-! ### Which ending each instruction has -/

/-- A relative jump is a jump to the sum (R324, D20). -/
theorem jumpRel_eq_jumpTo (e : Byte) (s : State) :
    jumpRel e s = jumpTo (BitVec.ofInt 16 (s.pc.toNat + e.toInt)) s :=
  congrArg (jumpTo · s) (add_sext16 s.pc e)

/-- R321, R323, R324: a listed jump writes its target. -/
theorem exec_jump {s : State} {a target : Addr} {e : Byte} {i : Instr} {m : Nat} (h : (i, target, m) ∈ jumps s a e) :
    exec i s = done m (jumpTo target s) := by
  simp only [jumps, List.mem_cons, Prod.mk.injEq, List.not_mem_nil, or_false] at h
  obtain ⟨rfl, rfl, rfl⟩ | ⟨rfl, rfl, rfl⟩ | ⟨rfl, rfl, rfl⟩ := h
  · rfl
  · rfl
  · exact congrArg (done 3) (jumpRel_eq_jumpTo e s)

/-- R326, R331: a listed call is `callTo` its target. -/
theorem exec_call {a target : Addr} {y : RST} {i : Instr} {m : Nat} (h : (i, target, m) ∈ calls a y) (s : State) :
    exec i s = done m (callTo target s) := by
  simp only [calls, List.mem_cons, Prod.mk.injEq, List.not_mem_nil, or_false] at h
  obtain ⟨rfl, rfl, rfl⟩ | ⟨rfl, rfl, rfl⟩ := h <;> rfl

/-- R328, R330: a listed return pops PC and leaves the listed IME. -/
theorem exec_return {s : State} {i : Instr} {ime : Bool} (h : (i, ime) ∈ returns s) :
    exec i s = done 4 ((returnFrom s).setIme ime) := by
  simp only [returns, List.mem_cons, Prod.mk.injEq, List.not_mem_nil, or_false] at h
  obtain ⟨rfl, rfl⟩ | ⟨rfl, rfl⟩ := h <;> rfl

section
variable {s : State} {cc : CC} {taken : Bool} (h : taken = condHolds cc s.flagZ s.flagC)
include h

/-- R322, R325: a listed conditional jump, as one write of PC on both paths. -/
theorem exec_condJump {a target : Addr} {e : Byte} {i : Instr} {m n : Nat}
    (hi : (i, target, m, n) ∈ condJumps s cc a e) :
    exec i s = done (if taken then m else n) (jumpTo (if taken then target else s.pc) s) := by
  have hc : s.cond cc = taken := (s.cond_eq cc).trans h.symm
  simp only [condJumps, List.mem_cons, Prod.mk.injEq, List.not_mem_nil, or_false] at hi
  obtain ⟨rfl, rfl, rfl, rfl⟩ | ⟨rfl, rfl, rfl, rfl⟩ := hi
  · change (if s.cond cc then done 4 (jumpTo target s) else done 3 s) = _
    rw [hc]
    cases taken <;> rfl
  · change (if s.cond cc then done 3 (jumpRel e s) else done 2 s) = _
    rw [hc, jumpRel_eq_jumpTo]
    cases taken <;> rfl

/-- R327: the call, or PC as it was. -/
theorem exec_callCcA16 (a : Addr) :
    exec (.callCcA16 cc a) s = if taken then done 6 (callTo a s) else done 3 (jumpTo s.pc s) := by
  rw [h, ← s.cond_eq]
  rfl

/-- R329: the return, or PC as it was. -/
theorem exec_retCc :
    exec (.retCc cc) s = if taken then done 5 ((returnFrom s).setIme s.ime) else done 2 (jumpTo s.pc s) := by
  rw [h, ← s.cond_eq]
  rfl

end

/-! ### The statements -/

/-- Settles O50: every listed jump is `jumpTo` its target. -/
theorem jumpsWriteOnlyPc : Obligations.JumpsWriteOnlyPc := by
  intro s i target a e m hi
  rw [exec_jump hi]
  exact done_jumpTo_spec target m s

/-- Settles O51: the path chooses the target and the cycles, and PC alone is written on either. -/
theorem conditionalJumpsTestTheFlag : Obligations.ConditionalJumpsTestTheFlag := by
  intro s cc i target a e m n taken hi htaken
  rw [exec_condJump htaken hi]
  exact done_jumpTo_spec _ _ s

/-- Settles O52: both are `callTo`, the two bytes in address order. -/
theorem callsAndRestartsPushTheReturnAddress : Obligations.CallsAndRestartsPushTheReturnAddress := by
  intro s i target a y m x0 x1 hi hx
  obtain ⟨rfl, rfl⟩ := Prod.mk.inj (hx.trans (split_eq _ _).symm)
  rw [exec_call hi]
  exact callTo_spec s target m

/-- Settles O53: `callTo` on the path taken, PC as it was on the other. -/
theorem conditionalCallTestsTheFlag : Obligations.ConditionalCallTestsTheFlag := by
  intro s cc a taken x0 x1 htaken hx
  obtain ⟨rfl, rfl⟩ := Prod.mk.inj (hx.trans (split_eq _ _).symm)
  rw [exec_callCcA16 htaken]
  cases taken with
  | true =>
    obtain ⟨t, ht, hpc, hsp, hime, hupper, hlower, hmem, hreg, hf, hcfg, hbus⟩ := callTo_spec s a 6
    exact ⟨t, ht, hreg, hf, hime, hcfg, fun _ => ⟨hpc, hsp, hupper, hlower, hmem, hbus⟩, nofun⟩
  | false =>
    obtain ⟨t, ht, hpc, hsp, hime, hreg, hf, hmem, hcfg, hbus⟩ := done_jumpTo_spec s.pc 3 s
    exact ⟨t, ht, hreg, hf, hime, hcfg, nofun, fun _ => ⟨hpc, hsp, hmem, hbus⟩⟩

/-- Settles O54: both pop PC, and the list gives the IME. -/
theorem returnsPopPc : Obligations.ReturnsPopPc := by
  intro s b0 b1 i ime h0 h1 hi
  rw [exec_return hi]
  exact done_returnFrom_spec s h0 h1 ime 4

/-- Settles O55: RET's pop on the path taken, PC as it was on the other. -/
theorem conditionalReturnTestsTheFlag : Obligations.ConditionalReturnTestsTheFlag := by
  intro s cc taken b0 b1 htaken h0 h1
  rw [exec_retCc htaken]
  cases taken with
  | true =>
    obtain ⟨t, ht, hpc, hsp, hime, hreg, hf, hmem, hcfg, hbus⟩ := done_returnFrom_spec s h0 h1 s.ime 5
    exact ⟨t, ht, hreg, hf, hime, hmem, hcfg, fun _ => ⟨hpc, hsp, hbus⟩, nofun⟩
  | false =>
    obtain ⟨t, ht, hpc, hsp, hime, hreg, hf, hmem, hcfg, hbus⟩ := done_jumpTo_spec s.pc 2 s
    exact ⟨t, ht, hreg, hf, hime, hmem, hcfg, nofun, fun _ => ⟨hpc, hsp, hbus⟩⟩

end Sys2Proof.Machine

/-! ## Miscellaneous and system (47_misc_system.md)

NOP, HALT, STOP, DI and EI are the shared endings `done` and `doneHalted`, an invalid byte is `invalidPrimary`, and the
prefix entry is one fetch before a dispatch that the whole secondary table completes. -/

namespace Sys2Proof.Machine

/-- R102, R371 step 3: every entry of the secondary table is one of the 22 rows `runSecondary` dispatches, and each of
those completes; so the case it keeps for an invalid entry is never met. -/
theorem runSecondary_decodeSecondary_completes (op b : Byte) (a : Addr) (s : State) :
    ∃ t, runSecondary b a (decodeSecondary op) s = .next t := by
  fun_cases decodeSecondary op <;> exact ⟨_, rfl⟩

/-- R356: the meaning of an invalid entry is the stop for its own byte. -/
theorem exec_invalidEntry (s : State) : ∀ p ∈ invalidEntries, exec p.1 s = invalidPrimary p.2 s := by
  simp only [invalidEntries, List.forall_mem_cons]
  exact ⟨rfl, rfl, rfl, rfl, rfl, rfl, rfl, rfl, rfl, rfl, rfl, nofun⟩

/-- Settles O57: after the fetch the dispatch completes, and a completed dispatch is `exec` of the entry. -/
theorem prefixRunsTheSecondaryEntry : Obligations.PrefixRunsTheSecondaryEntry := by
  intro s
  obtain ⟨t, ht⟩ := runSecondary_decodeSecondary_completes s.fetch8.1 s.fetch8.1 s.pc s.fetch8.2
  exact ⟨t, ht, (runSecondary_next ht).2⟩

/-- Settles O56: each is `done` or `doneHalted`, of the state itself or of the state with IME written. -/
theorem miscInstructionsChangeOnlyImeAndOutcome : Obligations.MiscInstructionsChangeOnlyImeAndOutcome := by
  intro s pad
  refine ⟨?nop, ?halt, ?stop, ?di, ?ei⟩
  case nop => exact done_eq_next (s := s).2 rfl
  case halt => exact doneHalted_eq_next (s := s).2 rfl
  case stop => exact doneHalted_eq_next (s := s).2 rfl
  case di => exact done_eq_next (s := s.setIme false).2 rfl
  case ei => exact done_eq_next (s := s.setIme true).2 rfl

/-- Settles O58: the eleven entries have one meaning, the stop for the entry's byte. -/
theorem invalidBytesRaiseInvalidOpcode : Obligations.InvalidBytesRaiseInvalidOpcode :=
  fun s i b h => exec_invalidEntry s (i, b) h

end Sys2Proof.Machine

/-! ## Execution engine (48_execution_engine.md)

Every meaning but that of the bare entry 0xCB ends in one of three ways: `done`, `doneHalted` for HALT and STOP,
`invalidPrimary` for an invalid byte. Which instructions end in `done` is said once for all of `exec`; whether a step
completes and what it reports are read off it. -/

namespace Sys2Proof.Machine

/-! ### How a meaning ends (R372, R377) -/

/-- Both paths of a conditional meaning (R320) end in `done`, and so does the meaning. -/
theorem exists_done_of_ite (b : Bool) (m n : Nat) (u v : State) :
    ∃ k w, (if b then done m u else done n v) = done k w := by
  cases b
  · exact ⟨n, v, rfl⟩
  · exact ⟨m, u, rfl⟩

/-- R372: every instruction but HALT, STOP and the invalid bytes retires. The bare entry 0xCB, which no step decodes
(R355), is left out. -/
theorem exec_retires {i : Instr} (hp : i ≠ .prefixCB) (hv : i.isInvalid = false) (hh : i ≠ .halt)
    (hs : ∀ pad, i ≠ .stop pad) (s : State) : ∃ m u, exec i s = done m u := by
  cases i with
  | prefixCB => exact absurd rfl hp
  | halt => exact absurd rfl hh
  | stop pad => exact absurd rfl (hs pad)
  | invalidD3 | invalidDB | invalidDD | invalidE3 | invalidE4 | invalidEB | invalidEC | invalidED | invalidF4
  | invalidFC | invalidFD => cases hv
  | jrCcE8 | jpCcA16 | callCcA16 | retCc => exact exists_done_of_ite _ _ _ _ _
  | _ => exact ⟨_, _, rfl⟩

/-- The meaning of an invalid byte answers no next state (R356, R400). -/
theorem not_isInvalid_of_exec_next {i : Instr} {s t : State} (h : exec i s = .next t) : i.isInvalid = false := by
  cases i with
  | invalidD3 | invalidDB | invalidDD | invalidE3 | invalidE4 | invalidEB | invalidEC | invalidED | invalidF4
  | invalidFC | invalidFD => exact absurd h nofun
  | _ => rfl

/-- R377: no state stops an instruction, and only the invalid bytes are none. -/
theorem exec_completes_iff {i : Instr} (hp : i ≠ .prefixCB) (s : State) :
    (∃ t, exec i s = .next t) ↔ i.isInvalid = false := by
  refine ⟨fun ⟨_, h⟩ => not_isInvalid_of_exec_next h, fun hv => ?_⟩
  by_cases hh : i = .halt
  · subst hh
    exact ⟨_, rfl⟩
  by_cases hs : ∃ pad, i = .stop pad
  · obtain ⟨pad, rfl⟩ := hs
    exact ⟨_, rfl⟩
  · obtain ⟨m, u, h⟩ := exec_retires hp hv hh (not_exists.1 hs) s
    exact ⟨_, h⟩

/-! ### A step -/

/-- A completed step leaves the parameters (log entry 1). -/
theorem step_cfg {s t : State} (h : step s = .next t) : t.cfg = s.cfg :=
  (step_leaves h).config.1

/-- R372, R374: the step of an instruction that retires reports it, with the state's own T_PER_M. -/
theorem step_last_retired {s t : State} (h : step s = .next t) (hh : s.nextInstr ≠ .halt)
    (hs : ∀ pad, s.nextInstr ≠ .stop pad) : ∃ m, t.last = .retired m (s.cfg.tPerM * m) := by
  obtain ⟨_, _, hx⟩ := step_next h
  obtain ⟨m, u, hd⟩ := exec_retires s.nextInstr_ne_prefixCB (not_isInvalid_of_exec_next hx) hh hs
    (s.afterFetch s.nextInstr.length)
  have hc := step_cfg h
  obtain rfl := done_eq_next.1 (hd.symm.trans hx)
  exact ⟨m, by rw [← hc]; rfl⟩

/-- R351, R352, R374: the step of an instruction that halts reports it, with the state's own T_PER_M. -/
theorem step_last_halted {s t : State} {k : HaltKind} (h : step s = .next t)
    (hi : ∀ u, exec s.nextInstr u = doneHalted k 1 u) : t.last = .halted k 1 (s.cfg.tPerM * 1) := by
  obtain ⟨_, _, hx⟩ := step_next h
  obtain rfl := doneHalted_eq_next.1 ((hi _).symm.trans hx)
  rfl

/-- Settles O15: `exec_completes_iff` on the state after the fetch, and what the first byte says of the entry. -/
theorem stepCompletesExactlyOffTheInvalidBytes : Obligations.StepCompletesExactlyOffTheInvalidBytes := by
  intro s hw ha
  rw [step_of_admits hw ha rfl rfl, exec_completes_iff s.nextInstr_ne_prefixCB, ← Bool.not_eq_true, s.nextInstr_eq,
    decodeInstr_isInvalid_iff]

/-- Settles O17: HALT and STOP are `doneHalted`, and every other completed step retires. -/
theorem outcomeIsHaltedExactlyForHaltAndStop : Obligations.OutcomeIsHaltedExactlyForHaltAndStop := by
  intro s t h
  split
  next hi => exact step_last_halted h fun _ => by rw [hi]; rfl
  next hi => exact step_last_halted h fun _ => by rw [hi]; rfl
  next hh hs => exact step_last_retired h hh hs

/-- What the decoder reads from the three bytes at PC is the instruction of the next step, and the bytes past it are
left (R94, R371). -/
theorem State.decode_fetchBytes (s : State) :
    decode s.cfg.byteOrder [s.fetchByte 0, s.fetchByte 1, s.fetchByte 2] =
      .ok (s.nextInstr, [s.fetchByte 0, s.fetchByte 1, s.fetchByte 2].drop s.nextInstr.length) := by
  rw [s.nextInstr_length, s.nextInstr_eq, ← decode_take_append, List.take_append_drop]

/-- Settles O12: the decoded instruction is the one the step runs. -/
theorem stepRunsTheDecodedInstruction : Obligations.StepRunsTheDecodedInstruction := by
  intro s i rest hw hd ha
  rw [s.decode_fetchBytes] at hd
  cases hd
  rw [step_eq hw, if_pos ha]

/-! ### A run (R378, R379) -/

/-- After a completed step a run has ended if the outcome is `Halted` and the host does not resume, and goes on
otherwise. -/
theorem runHost_of_next {s t : State} (h : step s = .next t) (k : Nat) :
    runHost (k + 1) s = if t.last.isHalted && !t.cfg.hostResumesHalt then .halted t else runHost k t := by
  simp only [runHost, h]

/-- A fault ends a run in the state before the step. -/
theorem runHost_of_fault {s : State} {r : Fault} (h : step s = .fault r) (k : Nat) :
    runHost (k + 1) s = .stuck r s := by
  simp only [runHost, h]

/-- Settles O59: the condition of `runHost_of_next` evaluated in each case. -/
theorem runEndsAtHaltedAndAtInvalidOpcode : Obligations.RunEndsAtHaltedAndAtInvalidOpcode := by
  refine fun k s => ⟨fun t h => ?_, fun r h => runHost_of_fault h k⟩
  rw [runHost_of_next h]
  exact ⟨fun hl hr => by simp [hl, hr], fun hl hr => by simp [hl, hr], fun hl => by simp [hl]⟩

end Sys2Proof.Machine

/-! ## Exceptions (60_exceptions.md)

The eleven invalid bytes decode to the eleven invalid entries, each of one byte and of no tier, so every `ADMIT` lets
their one meaning, the stop, run. -/

namespace Sys2Proof.Machine

/-- R104: an invalid byte decodes to its own entry, whatever bytes follow. -/
theorem decodeInstr_mem_invalidEntries (bo : ByteOrder) {op : Byte} (h : op ∈ invalidBytes) (x y : Byte) :
    (decodeInstr bo op x y, op) ∈ invalidEntries := by
  fin_cases h <;> exact List.elem_iff.1 rfl

/-- R90, R107: an invalid entry has one byte and no tier. -/
theorem length_and_tierOf_of_invalidEntry :
    ∀ p ∈ invalidEntries, p.1.length = 1 ∧ tierOf p.1 = none := by
  decide

/-- R107: what has no tier is outside `ADMIT` (log entry 10). -/
theorem admits_none (k : Admit) : admits k none = true := by cases k <;> rfl

/-- Settles O16: the entry of the first byte runs after a fetch of one byte, so one below PC is PC before the step. -/
theorem stepOnAnInvalidByteIsInvalidOpcode : Obligations.StepOnAnInvalidByteIsInvalidOpcode := by
  intro s hw hb
  have he : (s.nextInstr, s.fetchByte 0) ∈ invalidEntries := s.nextInstr_eq ▸ decodeInstr_mem_invalidEntries _ hb _ _
  obtain ⟨hlen, htier⟩ := length_and_tierOf_of_invalidEntry _ he
  have hpc : (s.afterFetch 1).pc - 1 = s.pc := BitVec.add_sub_cancel s.pc 1
  rw [step_of_admits hw rfl htier (admits_none _), exec_invalidEntry _ _ he, s.fetchInstr_state, hlen, invalidPrimary,
    hpc, raiseInvalidOpcode]

end Sys2Proof.Machine

/-! ## Reset and hazards (70_reset_and_hazards.md)

The fetch makes as many accesses as the instruction has bytes. What its meaning may add to them within its machine cycles
is said once for all of `exec`, grouped by the accesses an instruction makes. -/

namespace Sys2Proof.Machine

/-- The instruction retires in machine cycles that cover its bytes and the accesses newly recorded in `t` (R436). -/
def CoversAccesses (i : Instr) (s t : State) : Prop :=
  ∃ m, t.last = .retired m (t.cfg.tPerM * m) ∧ t.accesses.length + i.length ≤ s.accesses.length + m

section
variable {i : Instr} {s t u v : State} {m n : Nat}

/-- A meaning that ends in `done`, with the count of its accesses. -/
theorem CoversAccesses.of_done (h : done m u = .next t)
    (hl : u.accesses.length + i.length ≤ s.accesses.length + m) : CoversAccesses i s t := by
  cases h
  exact ⟨m, rfl, hl⟩

/-- A conditional meaning (R320): both its paths. -/
theorem CoversAccesses.of_ite {b : Bool} (h : (if b then done m u else done n v) = .next t)
    (hu : u.accesses.length + i.length ≤ s.accesses.length + m)
    (hv : v.accesses.length + i.length ≤ s.accesses.length + n) : CoversAccesses i s t := by
  cases b
  · exact .of_done h hv
  · exact .of_done h hu

end

/-- R436: every completed instruction but HALT and STOP has cycles enough. The bare entry 0xCB, which no step decodes
(R355), is left out. -/
theorem exec_coversAccesses {i : Instr} {s t : State} (hp : i ≠ .prefixCB) (hh : i ≠ .halt)
    (hs : ∀ pad, i ≠ .stop pad) (h : exec i s = .next t) : CoversAccesses i s t := by
  cases i with
  | prefixCB => exact absurd rfl hp
  | halt => exact absurd rfl hh
  | stop pad => exact absurd rfl (hs pad)
  | invalidD3 | invalidDB | invalidDD | invalidE3 | invalidE4 | invalidEB | invalidEC | invalidED | invalidF4
  | invalidFC | invalidFD => exact absurd h nofun
  -- no access
  | nop | di | ei | jpA16 | jpHL | jrE8 | ldRrD16 | ldRD8 | ldRR | ldSPHL | ldHLSPE8 | addHLRr | addSPE8
  | incRr | decRr | incR | decR | rlca | rrca | rla | rra | daa | cpl | scf | ccf
  | addAR | addAD8 | adcAR | adcAD8 | subR | subD8 | sbcAR | sbcAD8 | andR | andD8 | xorR | xorD8 | orR | orD8 | cpR | cpD8
  | rlcR | rrcR | rlR | rrR | slaR | sraR | swapR | srlR | bitBR | resBR | setBR =>
    exact .of_done h (by simp [Instr.length])
  -- one access
  | ldRAtHL | ldAAtHLInc | ldAAtHLDec | addAAtHL | adcAAtHL | subAtHL | sbcAAtHL | andAtHL | xorAtHL | orAtHL | cpAtHL
  | bitBAtHL | ldAAtBC | ldAAtDE | ldAAtA16 | ldhAAtA8 | ldAAtC
  | ldAtHLD8 | ldAtHLR | ldAtHLIncA | ldAtHLDecA | ldAtBCA | ldAtDEA | ldhAtA8A | ldAtCA | ldAtA16A =>
    exact .of_done h (by simp [Instr.length])
  -- two accesses
  | incAtHL | decAtHL | rlcAtHL | rrcAtHL | rlAtHL | rrAtHL | slaAtHL | sraAtHL | swapAtHL | srlAtHL | resBAtHL | setBAtHL
  | ldAtA16SP | pushRr | callA16 | rstT =>
    exact .of_done h (by simp [Instr.length])
  | popRr | ret | reti => exact .of_done h (by simp [Instr.length, State.pop16_accesses])
  -- the accesses of the path taken
  | jpCcA16 | jrCcE8 | callCcA16 => exact .of_ite h (by simp [Instr.length]) (by simp [Instr.length])
  | retCc => exact .of_ite h (by simp [Instr.length, State.pop16_accesses]) (by simp [Instr.length])

/-- R94: a fetch records one access for each byte. -/
theorem State.length_accesses_afterFetch (s : State) (n : Nat) : (s.afterFetch n).accesses.length = n := by
  simp [State.afterFetch]

/-- HALT and STOP record their fetches alone (R351, R352). -/
theorem step_accesses_halted {s t : State} {k : HaltKind} (h : step s = .next t)
    (hi : ∀ u, exec s.nextInstr u = doneHalted k 1 u) : t.accesses.length = s.nextInstr.length := by
  obtain ⟨_, _, hx⟩ := step_next h
  obtain rfl := doneHalted_eq_next.1 ((hi _).symm.trans hx)
  exact s.length_accesses_afterFetch _

/-- Any other step's accesses, its fetches included, are at most its cycles. -/
theorem step_accesses_le {s t : State} (h : step s = .next t) (hh : s.nextInstr ≠ .halt)
    (hs : ∀ pad, s.nextInstr ≠ .stop pad) :
    ∃ m, t.last = .retired m (s.cfg.tPerM * m) ∧ t.accesses.length ≤ m := by
  obtain ⟨_, _, hx⟩ := step_next h
  obtain ⟨m, hlast, hle⟩ := exec_coversAccesses s.nextInstr_ne_prefixCB hh hs hx
  rw [s.length_accesses_afterFetch] at hle
  rw [step_cfg h] at hlast
  exact ⟨m, hlast, by omega⟩

/-- Settles O18: HALT and STOP add nothing to their fetches, and every other completed step covers its accesses. -/
theorem machineCyclesBoundTheBusAccesses : Obligations.MachineCyclesBoundTheBusAccesses := by
  intro s t h
  split
  next hi =>
    have hx : ∀ u, exec s.nextInstr u = doneHalted .stop 1 u := fun _ => by rw [hi]; rfl
    exact ⟨(step_accesses_halted h hx).trans (congrArg Instr.length hi), step_last_halted h hx⟩
  next hi =>
    have hx : ∀ u, exec s.nextInstr u = doneHalted .halt 1 u := fun _ => by rw [hi]; rfl
    exact ⟨((step_accesses_halted h hx).trans (congrArg Instr.length hi)).le, step_last_halted h hx⟩
  next hs hh => exact step_accesses_le h hh hs

end Sys2Proof.Machine
